-- ==== Sys2Proof/Word.lean ====
section
/-! DEFINITION. The word types of the machine (spec/00_scope.md R5, R7): every quantity is unsigned. -/

namespace Sys2Proof

/-- A byte: a V register, a timer, a memory cell (R21, R24, R32, R33). -/
abbrev Byte := BitVec 8

/-- Sixteen bits: the instruction word, I, PC and a stack entry (R26, R27, R30, R73). -/
abbrev Word := BitVec 16

/-- The number of a V register, from the X or Y nibble of the word (R74). -/
abbrev RegNo := Fin 16

end Sys2Proof
end

