-- ==== Sys2Proof/Syntax.lean ====
section
/-! DEFINITION. The 33 instructions of spec/30_encoding.md R75, one constructor per row of spec/opcode_table.json, in the
table's order. Operands are those of the table's "operands" column (R74): `x`, `y` register numbers, `nn` and `nnn` the
immediate bits, `n` a count of rows. -/

namespace Sys2Proof

/-- An instruction (R75). The comment on each constructor gives its pattern and the rule of its meaning. -/
inductive Instr where
  | cls                                  -- 00E0, R140
  | ret                                  -- 00EE, R100
  | jp (nnn : BitVec 12)                 -- 1NNN, R101
  | call (nnn : BitVec 12)               -- 2NNN, R102
  | seVxNn (x : RegNo) (nn : Byte)       -- 3XNN, R104
  | sneVxNn (x : RegNo) (nn : Byte)      -- 4XNN, R105
  | seVxVy (x y : RegNo)                 -- 5XY0, R106
  | ldVxNn (x : RegNo) (nn : Byte)       -- 6XNN, R111
  | addVxNn (x : RegNo) (nn : Byte)      -- 7XNN, R112
  | ldVxVy (x y : RegNo)                 -- 8XY0, R113
  | or (x y : RegNo)                     -- 8XY1, R114
  | and (x y : RegNo)                    -- 8XY2, R115
  | xor (x y : RegNo)                    -- 8XY3, R116
  | addVxVy (x y : RegNo)                -- 8XY4, R117
  | sub (x y : RegNo)                    -- 8XY5, R118
  | shr (x yIgnored : RegNo)             -- 8XY6, R119; the Y nibble is kept but means nothing (R77)
  | subn (x y : RegNo)                   -- 8XY7, R120
  | shl (x yIgnored : RegNo)             -- 8XYE, R121; the Y nibble is kept but means nothing (R77)
  | sneVxVy (x y : RegNo)                -- 9XY0, R107
  | ldINnn (nnn : BitVec 12)             -- ANNN, R130
  | jpV0Nnn (nnn : BitVec 12)            -- BNNN, R103
  | rnd (x : RegNo) (nn : Byte)          -- CXNN, R122
  | drw (x y : RegNo) (n : Nat)          -- DXYN, R141
  | skp (x : RegNo)                      -- EX9E, R150
  | sknp (x : RegNo)                     -- EXA1, R151
  | ldVxDt (x : RegNo)                   -- FX07, R152
  | ldDtVx (x : RegNo)                   -- FX15, R153
  | ldStVx (x : RegNo)                   -- FX18, R154
  | addIVx (x : RegNo)                   -- FX1E, R131
  | ldFVx (x : RegNo)                    -- FX29, R132
  | ldBVx (x : RegNo)                    -- FX33, R133
  | ldMemVx (x : RegNo)                  -- FX55, R134
  | ldVxMem (x : RegNo)                  -- FX65, R135
  deriving DecidableEq, Repr

end Sys2Proof
end

