-- ==== Sys2Proof/Decode.lean ====
section
/-! DEFINITION. From words to instructions and back (spec/30_encoding.md R73 to R80), the opcode table of R75 as data, and
the listing form of R81. -/

namespace Sys2Proof

/-! ### Fields of the word (R73) -/

/-- Nibble `a`, the family (R73). -/
def nibA (w : Word) : BitVec 4 := w.extractLsb' 12 4

/-- Nibble `d`, the function code or N (R73). -/
def nibD (w : Word) : BitVec 4 := w.extractLsb' 0 4

/-- X, nibble `b` (R73, R74). -/
def fieldX (w : Word) : RegNo := (w.extractLsb' 8 4).toFin

/-- Y, nibble `c` (R73, R74). -/
def fieldY (w : Word) : RegNo := (w.extractLsb' 4 4).toFin

/-- NN, the low byte (R73). -/
def fieldNN (w : Word) : Byte := w.extractLsb' 0 8

/-- NNN, the low twelve bits (R73). -/
def fieldNNN (w : Word) : BitVec 12 := w.extractLsb' 0 12

/-! ### Decoding -/

/-- Why a word or a run of bytes is no instruction: one name per class (a) to (f) of R78, and a run of fewer than two
bytes. -/
inductive Reject where
  | tooShort    -- fewer than two bytes: no word to decode
  | family0     -- R78 (a): 0NNN other than 00E0 and 00EE
  | family5     -- R78 (b): 5XYd with d ≠ 0
  | family8     -- R78 (c): 8XYd with d in 8..D or F
  | family9     -- R78 (d): 9XYd with d ≠ 0
  | familyE     -- R78 (e): EXNN with NN not 9E or A1
  | familyF     -- R78 (f): FXNN with NN none of the eight
  deriving DecidableEq, Repr

/-- Family 8 by its function nibble (R76, rows 10 to 18). -/
def decodeFamily8 (w : Word) : Except Reject Instr :=
  match (nibD w).toNat with
  | 0x0 => .ok (.ldVxVy (fieldX w) (fieldY w))
  | 0x1 => .ok (.or (fieldX w) (fieldY w))
  | 0x2 => .ok (.and (fieldX w) (fieldY w))
  | 0x3 => .ok (.xor (fieldX w) (fieldY w))
  | 0x4 => .ok (.addVxVy (fieldX w) (fieldY w))
  | 0x5 => .ok (.sub (fieldX w) (fieldY w))
  | 0x6 => .ok (.shr (fieldX w) (fieldY w))
  | 0x7 => .ok (.subn (fieldX w) (fieldY w))
  | 0xE => .ok (.shl (fieldX w) (fieldY w))
  | _ => .error .family8

/-- Family E by its function byte (R76, rows 24 and 25). -/
def decodeFamilyE (w : Word) : Except Reject Instr :=
  match (fieldNN w).toNat with
  | 0x9E => .ok (.skp (fieldX w))
  | 0xA1 => .ok (.sknp (fieldX w))
  | _ => .error .familyE

/-- Family F by its function byte (R76, rows 26 to 33). -/
def decodeFamilyF (w : Word) : Except Reject Instr :=
  match (fieldNN w).toNat with
  | 0x07 => .ok (.ldVxDt (fieldX w))
  | 0x15 => .ok (.ldDtVx (fieldX w))
  | 0x18 => .ok (.ldStVx (fieldX w))
  | 0x1E => .ok (.addIVx (fieldX w))
  | 0x29 => .ok (.ldFVx (fieldX w))
  | 0x33 => .ok (.ldBVx (fieldX w))
  | 0x55 => .ok (.ldMemVx (fieldX w))
  | 0x65 => .ok (.ldVxMem (fieldX w))
  | _ => .error .familyF

/-- The decision tree of R76, strict on every literal nibble (C2, D14). The last arm is family F: a nibble is at most 15. -/
def decodeWord (w : Word) : Except Reject Instr :=
  match (nibA w).toNat with
  | 0x0 => if w = 0x00E0 then .ok .cls else if w = 0x00EE then .ok .ret else .error .family0
  | 0x1 => .ok (.jp (fieldNNN w))
  | 0x2 => .ok (.call (fieldNNN w))
  | 0x3 => .ok (.seVxNn (fieldX w) (fieldNN w))
  | 0x4 => .ok (.sneVxNn (fieldX w) (fieldNN w))
  | 0x5 => if nibD w = 0 then .ok (.seVxVy (fieldX w) (fieldY w)) else .error .family5
  | 0x6 => .ok (.ldVxNn (fieldX w) (fieldNN w))
  | 0x7 => .ok (.addVxNn (fieldX w) (fieldNN w))
  | 0x8 => decodeFamily8 w
  | 0x9 => if nibD w = 0 then .ok (.sneVxVy (fieldX w) (fieldY w)) else .error .family9
  | 0xA => .ok (.ldINnn (fieldNNN w))
  | 0xB => .ok (.jpV0Nnn (fieldNNN w))
  | 0xC => .ok (.rnd (fieldX w) (fieldNN w))
  | 0xD => .ok (.drw (fieldX w) (fieldY w) (nibD w).toNat)
  | 0xE => decodeFamilyE w
  | _ => decodeFamilyF w

/-- The word of two bytes, high byte first (R52, R71). -/
def wordOfBytes (hi lo : Byte) : Word := hi ++ lo

/-- The two bytes of a word as they lie in memory, high byte at the lower address (R52). -/
def bytesOfWord (w : Word) : List Byte := [w.extractLsb' 8 8, w.extractLsb' 0 8]

/-- Decoding of a run of bytes: the first instruction and the bytes after it (R73: every instruction is two bytes). -/
def decode : List Byte → Except Reject (Instr × List Byte)
  | hi :: lo :: rest =>
    match decodeWord (wordOfBytes hi lo) with
    | .ok i => .ok (i, rest)
    | .error r => .error r
  | _ => .error .tooShort

/-- The instruction the decoder reads from the bits `w`, numbered as spec/opcode_table.json numbers them: one 16-bit word,
bit 0 its least significant; its two bytes are laid out high byte first (R52) and given to `decode`. -/
def decodeTableWord (nbits w : Nat) : Option Instr :=
  match decode (bytesOfWord (BitVec.ofNat 16 (w % 2 ^ nbits))) with
  | .ok (i, _) => some i
  | .error _ => none

/-! ### Encoding -/

/-- The four bits that name a register (R73). -/
def regBits (x : RegNo) : BitVec 4 := BitVec.ofNat 4 x.val

/-- A word of the form `a X NN` (R73). -/
def wordXNN (a : BitVec 4) (x : RegNo) (nn : Byte) : Word := a ++ regBits x ++ nn

/-- A word of the form `a X Y d` (R73). -/
def wordXYD (a : BitVec 4) (x y : RegNo) (d : BitVec 4) : Word := a ++ regBits x ++ regBits y ++ d

/-- A word of the form `a NNN` (R73). -/
def wordNNN (a : BitVec 4) (nnn : BitVec 12) : Word := a ++ nnn

/-- The word of an instruction, from the "encoding" column of spec/opcode_table.json (R75). -/
def encodeWord : Instr → Word
  | .cls => 0x00E0
  | .ret => 0x00EE
  | .jp nnn => wordNNN 0x1 nnn
  | .call nnn => wordNNN 0x2 nnn
  | .seVxNn x nn => wordXNN 0x3 x nn
  | .sneVxNn x nn => wordXNN 0x4 x nn
  | .seVxVy x y => wordXYD 0x5 x y 0x0
  | .ldVxNn x nn => wordXNN 0x6 x nn
  | .addVxNn x nn => wordXNN 0x7 x nn
  | .ldVxVy x y => wordXYD 0x8 x y 0x0
  | .or x y => wordXYD 0x8 x y 0x1
  | .and x y => wordXYD 0x8 x y 0x2
  | .xor x y => wordXYD 0x8 x y 0x3
  | .addVxVy x y => wordXYD 0x8 x y 0x4
  | .sub x y => wordXYD 0x8 x y 0x5
  | .shr x yIgnored => wordXYD 0x8 x yIgnored 0x6
  | .subn x y => wordXYD 0x8 x y 0x7
  | .shl x yIgnored => wordXYD 0x8 x yIgnored 0xE
  | .sneVxVy x y => wordXYD 0x9 x y 0x0
  | .ldINnn nnn => wordNNN 0xA nnn
  | .jpV0Nnn nnn => wordNNN 0xB nnn
  | .rnd x nn => wordXNN 0xC x nn
  | .drw x y n => wordXYD 0xD x y (BitVec.ofNat 4 n)
  | .skp x => wordXNN 0xE x 0x9E
  | .sknp x => wordXNN 0xE x 0xA1
  | .ldVxDt x => wordXNN 0xF x 0x07
  | .ldDtVx x => wordXNN 0xF x 0x15
  | .ldStVx x => wordXNN 0xF x 0x18
  | .addIVx x => wordXNN 0xF x 0x1E
  | .ldFVx x => wordXNN 0xF x 0x29
  | .ldBVx x => wordXNN 0xF x 0x33
  | .ldMemVx x => wordXNN 0xF x 0x55
  | .ldVxMem x => wordXNN 0xF x 0x65

/-- The bytes of an instruction as they lie in memory and in a program image (R52). -/
def encode (i : Instr) : List Byte := bytesOfWord (encodeWord i)

/-! ### The opcode table as data (R75) -/

/-- A row of the opcode table: a word `op` is this row's instruction when `op &&& mask = pattern` (R75). -/
structure Row where
  pattern  : Word
  mask     : Word
  mnemonic : String
  deriving DecidableEq, Repr

/-- The word matches the row (R75). -/
def Row.hits (r : Row) (w : Word) : Bool := decide (w &&& r.mask = r.pattern)

/-- Rows 1 to 9 of R75. -/
def rows1to9 : List Row :=
  [⟨0x00E0, 0xFFFF, "CLS"⟩, ⟨0x00EE, 0xFFFF, "RET"⟩, ⟨0x1000, 0xF000, "JP"⟩, ⟨0x2000, 0xF000, "CALL"⟩,
   ⟨0x3000, 0xF000, "SE_VX_NN"⟩, ⟨0x4000, 0xF000, "SNE_VX_NN"⟩, ⟨0x5000, 0xF00F, "SE_VX_VY"⟩,
   ⟨0x6000, 0xF000, "LD_VX_NN"⟩, ⟨0x7000, 0xF000, "ADD_VX_NN"⟩]

/-- Rows 10 to 18 of R75. -/
def rows10to18 : List Row :=
  [⟨0x8000, 0xF00F, "LD_VX_VY"⟩, ⟨0x8001, 0xF00F, "OR"⟩, ⟨0x8002, 0xF00F, "AND"⟩, ⟨0x8003, 0xF00F, "XOR"⟩,
   ⟨0x8004, 0xF00F, "ADD_VX_VY"⟩, ⟨0x8005, 0xF00F, "SUB"⟩, ⟨0x8006, 0xF00F, "SHR"⟩, ⟨0x8007, 0xF00F, "SUBN"⟩,
   ⟨0x800E, 0xF00F, "SHL"⟩]

/-- Rows 19 to 25 of R75. -/
def rows19to25 : List Row :=
  [⟨0x9000, 0xF00F, "SNE_VX_VY"⟩, ⟨0xA000, 0xF000, "LD_I_NNN"⟩, ⟨0xB000, 0xF000, "JP_V0_NNN"⟩,
   ⟨0xC000, 0xF000, "RND"⟩, ⟨0xD000, 0xF000, "DRW"⟩, ⟨0xE09E, 0xF0FF, "SKP"⟩, ⟨0xE0A1, 0xF0FF, "SKNP"⟩]

/-- Rows 26 to 33 of R75. -/
def rows26to33 : List Row :=
  [⟨0xF007, 0xF0FF, "LD_VX_DT"⟩, ⟨0xF015, 0xF0FF, "LD_DT_VX"⟩, ⟨0xF018, 0xF0FF, "LD_ST_VX"⟩,
   ⟨0xF01E, 0xF0FF, "ADD_I_VX"⟩, ⟨0xF029, 0xF0FF, "LD_F_VX"⟩, ⟨0xF033, 0xF0FF, "LD_B_VX"⟩,
   ⟨0xF055, 0xF0FF, "LD_MEM_VX"⟩, ⟨0xF065, 0xF0FF, "LD_VX_MEM"⟩]

/-- The opcode table of R75, transcribed row by row. -/
def opcodeTable : List Row := rows1to9 ++ rows10to18 ++ rows19to25 ++ rows26to33

/-- The mnemonic of R75 that names the instruction. -/
def mnemonic : Instr → String
  | .cls => "CLS"
  | .ret => "RET"
  | .jp _ => "JP"
  | .call _ => "CALL"
  | .seVxNn _ _ => "SE_VX_NN"
  | .sneVxNn _ _ => "SNE_VX_NN"
  | .seVxVy _ _ => "SE_VX_VY"
  | .ldVxNn _ _ => "LD_VX_NN"
  | .addVxNn _ _ => "ADD_VX_NN"
  | .ldVxVy _ _ => "LD_VX_VY"
  | .or _ _ => "OR"
  | .and _ _ => "AND"
  | .xor _ _ => "XOR"
  | .addVxVy _ _ => "ADD_VX_VY"
  | .sub _ _ => "SUB"
  | .shr _ _ => "SHR"
  | .subn _ _ => "SUBN"
  | .shl _ _ => "SHL"
  | .sneVxVy _ _ => "SNE_VX_VY"
  | .ldINnn _ => "LD_I_NNN"
  | .jpV0Nnn _ => "JP_V0_NNN"
  | .rnd _ _ => "RND"
  | .drw _ _ _ => "DRW"
  | .skp _ => "SKP"
  | .sknp _ => "SKNP"
  | .ldVxDt _ => "LD_VX_DT"
  | .ldDtVx _ => "LD_DT_VX"
  | .ldStVx _ => "LD_ST_VX"
  | .addIVx _ => "ADD_I_VX"
  | .ldFVx _ => "LD_F_VX"
  | .ldBVx _ => "LD_B_VX"
  | .ldMemVx _ => "LD_MEM_VX"
  | .ldVxMem _ => "LD_VX_MEM"

/-! ### The listing form of R81 -/

/-- The hexadecimal digit of a number below 16. -/
def hexDigit (n : Nat) : String := String.singleton (Nat.digitChar n).toUpper

/-- A register operand as R81 writes it: V0 to VF. -/
def regText (x : RegNo) : String := "V" ++ hexDigit x.val

/-- An immediate operand as R81 writes it: `0x` and one hexadecimal digit per nibble of its field, most significant first. -/
def immText (nibbles n : Nat) : String :=
  (List.range nibbles).foldl (fun t k => t ++ hexDigit (n / 16 ^ (nibbles - 1 - k) % 16)) "0x"

/-- The operands of an instruction in the order of R75's operands column. -/
def operandTexts : Instr → List String
  | .cls | .ret => []
  | .jp nnn | .call nnn | .ldINnn nnn | .jpV0Nnn nnn => [immText 3 nnn.toNat]
  | .seVxNn x nn | .sneVxNn x nn | .ldVxNn x nn | .addVxNn x nn | .rnd x nn => [regText x, immText 2 nn.toNat]
  | .seVxVy x y | .sneVxVy x y | .ldVxVy x y | .or x y | .and x y | .xor x y => [regText x, regText y]
  | .addVxVy x y | .sub x y | .subn x y => [regText x, regText y]
  | .shr x _ | .shl x _ => [regText x]
  | .drw x y n => [regText x, regText y, immText 1 n]
  | .skp x | .sknp x | .ldVxDt x | .ldDtVx x | .ldStVx x => [regText x]
  | .addIVx x | .ldFVx x | .ldBVx x | .ldMemVx x | .ldVxMem x => [regText x]

/-- An instruction as R81 lists it: its mnemonic, then its operands with ", " between. -/
def listing (i : Instr) : String :=
  match operandTexts i with
  | [] => mnemonic i
  | ops => mnemonic i ++ " " ++ String.intercalate ", " ops

end Sys2Proof
end

