-- ==== Sys2Proof/Config.lean ====
section
/-! DEFINITION. The constants of spec/00_scope.md R5, the default font of spec/10_state.md R23, and the one free value. -/

namespace Sys2Proof.Config

/-- MEM_SIZE (R5): bytes of memory. -/
abbrev memSize : Nat := 4096

/-- The highest address of memory, 0xFFF (R21). -/
abbrev memTop : Nat := 0xFFF

/-- PROG_BASE (R5, R27): load address and reset value of PC. -/
abbrev progBase : Nat := 0x200

/-- MAX_PROG (R5, R194): the largest program LOAD takes. -/
abbrev maxProg : Nat := 3584

/-- FONT_LEN (R5): bytes of font, at addresses 0x000 to 0x04F. -/
abbrev fontLen : Nat := 80

/-- GLYPH_LEN (R5): bytes of a glyph. -/
abbrev glyphLen : Nat := 5

/-- FB_W (R5): columns of the framebuffer. -/
abbrev fbW : Nat := 64

/-- FB_H (R5): rows of the framebuffer. -/
abbrev fbH : Nat := 32

/-- STACK_DEPTH (R5, R31): return addresses the call stack holds. -/
abbrev stackDepth : Nat := 16

/-- The parameter FONT: 80 bytes, a list that is one per byte of 0x000..0x04F (R23). -/
abbrev Font := Vector Byte fontLen

/-- Glyphs 0 to 7 of the conventional font, R23's left column (PRESUMED: G1, log 3). -/
def glyphsLow : List Byte :=
  [0xF0, 0x90, 0x90, 0x90, 0xF0] ++ [0x20, 0x60, 0x20, 0x20, 0x70] ++
  [0xF0, 0x10, 0xF0, 0x80, 0xF0] ++ [0xF0, 0x10, 0xF0, 0x10, 0xF0] ++
  [0x90, 0x90, 0xF0, 0x10, 0x10] ++ [0xF0, 0x80, 0xF0, 0x10, 0xF0] ++
  [0xF0, 0x80, 0xF0, 0x90, 0xF0] ++ [0xF0, 0x10, 0x20, 0x40, 0x40]

/-- Glyphs 8 to F of the conventional font, R23's right column (PRESUMED: G1, log 3). -/
def glyphsHigh : List Byte :=
  [0xF0, 0x90, 0xF0, 0x90, 0xF0] ++ [0xF0, 0x90, 0xF0, 0x10, 0xF0] ++
  [0xF0, 0x90, 0xF0, 0x90, 0x90] ++ [0xE0, 0x90, 0xE0, 0x90, 0xE0] ++
  [0xF0, 0x80, 0x80, 0x80, 0xF0] ++ [0xE0, 0x90, 0x90, 0x90, 0xE0] ++
  [0xF0, 0x80, 0xF0, 0x80, 0xF0] ++ [0xF0, 0x80, 0xF0, 0x80, 0x80]

/-- The default of the parameter FONT (R23: "use this table only as the default"; PRESUMED, log 3). -/
def defaultFont : Font := ⟨(glyphsLow ++ glyphsHigh).toArray, rfl⟩

/-- The random byte that the environment gives the `n`-th drawing CXNN when nothing is known of its `rnd` input: a FREE
VALUE, any byte whatever, with no law between two draws (R37 (a), R122, D16, U4; log 2). -/
opaque rndByte : Nat → Byte

end Sys2Proof.Config
end

