-- ==== Sys2Proof/Machine/State.lean ====
section
/-! DEFINITION. The state of the core (spec/10_state.md), its inputs and its parameter, as plain data, and the state after
reset (R39). -/

namespace Sys2Proof.Machine

/-- The cells of MEM that differ from what RESET leaves there: (address, byte), addresses strictly rising (R21; the
canonical form is `Memory.wf` of Machine/Ops.lean). -/
abbrev Memory := List Host.Cell

/-- The framebuffer: `FB[y * 64 + x]` is bit `x` of row `y` (R34). -/
abbrev FrameBuffer := Vector (BitVec 64) Config.fbH

/-- The four faults of R160. Each is RECORDED IN ERR by `raise` (Machine/Ops.lean) in a NEXT state, as R163 describes its
entry; no step ends in an outcome `.fault` (log 4). -/
inductive Fault where
  /-- Raised by `step` when the fetched word is no instruction (R78). Safe: the spec's own fault. -/
  | illegalInstruction
  /-- Raised by 2NNN with SP = 16 (R102). Safe: the spec's own fault. -/
  | stackOverflow
  /-- Raised by 00EE with SP = 0 (R100). Safe: the spec's own fault. -/
  | stackUnderflow
  /-- Raised by a fetch with PC > 0xFFE (R56), by DXYN, FX33, FX55, FX65 past 0xFFF (R57), by FX1E past 0xFFFF (R131) and by
  EX9E, EXA1 with VX > 15 (R150, R151). Safe: the spec's own fault. -/
  | outOfBoundsAccess
  deriving DecidableEq, Repr

/-- Why the model gives something no meaning. -/
inductive Refusal where
  /-- An instruction that has no meaning yet; no arm of `exec` raises it. Safe: the machine stops. -/
  | notModelled (mnemonic : String)
  /-- Raised by the command LOAD (not by any instruction) on more than 3584 bytes: R194 says that the command is then not
  enabled and that a model gives it no meaning. Safe: the machine stops. -/
  | loadTooLong
  deriving DecidableEq, Repr

/-- The state of the core: first the tuple of R20, then the two inputs, the parameter and the model's own counter. -/
structure State where
  /-- MEM (R21). -/
  mem  : Memory
  /-- V0 to VF (R24). -/
  v    : Vector Byte 16
  /-- I (R26). -/
  i    : Word
  /-- PC (R27): between commands, the address of the next instruction. -/
  pc   : Word
  /-- STK (R30). -/
  stk  : Vector Word 16
  /-- SP (R31): a count 0..16. -/
  sp   : Fin 17
  /-- DT (R32). -/
  dt   : Byte
  /-- ST (R33). -/
  st   : Byte
  /-- FB (R34). -/
  fb   : FrameBuffer
  /-- ERR (R36): 0 none, else the code of R160. -/
  err  : BitVec 3
  /-- KEY (R35), an input: true while the key is down. -/
  key  : Vector Bool 16
  /-- rnd (R37), an input: `some r` while the environment presents the byte `r`, `none` while nothing is known of it. -/
  rnd  : Option Byte
  /-- FONT (R23), a parameter: constant in every run. -/
  font : Config.Font
  /-- The model's own: how many random bytes CXNN has drawn, the index of the next free value (log 2). -/
  draws : Nat
  deriving DecidableEq, Repr

/-- The state after RESET at power-on (R39, R190, R191). The table of R39 gives every register; `key` (DESIGN CHOICE, log 1),
`rnd` and `draws` (DESIGN CHOICE, log 2) and `font` (PRESUMED, log 3) are no state of the core, and their values here are the
model's. -/
def State.reset : State where
  mem  := []
  v    := Vector.replicate 16 0
  i    := 0
  pc   := BitVec.ofNat 16 Config.progBase
  stk  := Vector.replicate 16 0
  sp   := 0
  dt   := 0
  st   := 0
  fb   := Vector.replicate Config.fbH 0
  err  := 0
  key  := Vector.replicate 16 false
  rnd  := none
  font := Config.defaultFont
  draws := 0

end Sys2Proof.Machine
end

