-- ==== Sys2Proof/Machine/Ops.lean ====
section
/-! DEFINITION. The named operations over memory, registers, stack and framebuffer; taking a fault (spec/60_exceptions.md
R163) and the only way out of it (R165, R190). -/

namespace Sys2Proof.Machine

/-! ### Memory (spec/20_memory.md) -/

/-- What an address that no cell lists reads as: the contents after RESET, `FONT[a]` below 0x050 and 0 above (R21, R51). -/
def Memory.unlisted (font : Config.Font) (a : Nat) : Byte :=
  if h : a < Config.fontLen then font[a] else 0

/-- The byte of the cell at an address, if one is listed. -/
def Memory.lookup : Memory → Nat → Option Byte
  | [], _ => none
  | c :: rest, a => if c.1 = a then some c.2 else Memory.lookup rest a

/-- The byte at an address (R54: a read returns the byte last written and changes nothing). -/
def Memory.read (font : Config.Font) (m : Memory) (a : Nat) : Byte :=
  (Memory.lookup m a).getD (Memory.unlisted font a)

/-- The cells with `(a, b)` listed, in the place that keeps addresses rising. -/
def Memory.put (a : Nat) (b : Byte) : Memory → Memory
  | [] => [(a, b)]
  | c :: rest =>
    if c.1 < a then c :: Memory.put a b rest
    else if c.1 = a then (a, b) :: rest
    else (a, b) :: c :: rest

/-- The cells with no cell listed for `a`. -/
def Memory.drop (a : Nat) (m : Memory) : Memory := m.filter fun c => decide (c.1 ≠ a)

/-- A write of one byte (R54: it changes only the addressed byte), keeping the canonical form: a byte equal to what its
address reads as unlisted is not listed. An address above 0xFFF does not exist (R21): nothing is written there, and every
instruction raises OutOfBoundsAccess before it comes to this (R57). -/
def Memory.write (font : Config.Font) (m : Memory) (a : Nat) (b : Byte) : Memory :=
  if a ≤ Config.memTop then
    if b = Memory.unlisted font a then Memory.drop a m else Memory.put a b m
  else m

/-- Bytes written one by one at ascending addresses (R54). -/
def Memory.writeBytes (font : Config.Font) : Memory → Nat → List Byte → Memory
  | m, _, [] => m
  | m, a, b :: bs => Memory.writeBytes font (Memory.write font m a b) (a + 1) bs

/-- The canonical form: addresses strictly rising, all inside memory, and no cell equal to what its address reads as
unlisted. -/
abbrev Memory.wf (font : Config.Font) (m : Memory) : Prop :=
  m.Pairwise (fun c d => c.1 < d.1) ∧ ∀ c ∈ m, c.1 ≤ Config.memTop ∧ c.2 ≠ Memory.unlisted font c.1

/-- `MEM[a]`. -/
def State.readByte (s : State) (a : Nat) : Byte := Memory.read s.font s.mem a

/-- `n` bytes from ascending addresses (R54). -/
def State.readBytes (s : State) (a n : Nat) : List Byte := (List.range n).map fun k => s.readByte (a + k)

/-- Bytes stored at ascending addresses (R54). -/
def State.writeBytes (s : State) (a : Nat) (bs : List Byte) : State :=
  { s with mem := Memory.writeBytes s.font s.mem a bs }

/-- An address of memory, 0x000 to 0xFFF (R21, R57). -/
def inMemory (a : Nat) : Bool := decide (a ≤ Config.memTop)

/-! ### Registers (spec/10_state.md) -/

/-- VF (R25). -/
abbrev vf : RegNo := 15

/-- `V[x]` (R24). -/
def State.getV (s : State) (x : RegNo) : Byte := s.v[x]

/-- `V[x] <- b` (R24). -/
def State.setV (s : State) (x : RegNo) (b : Byte) : State := { s with v := s.v.set x b }

/-- Successive registers from number `k` on receive the bytes; numbers above 15 do not exist. -/
def loadRun : Vector Byte 16 → Nat → List Byte → Vector Byte 16
  | v, _, [] => v
  | v, k, b :: bs => loadRun (v.setIfInBounds k b) (k + 1) bs

/-- The bytes of V0 to V(n-1), in order. -/
def State.firstRegs (s : State) (n : Nat) : List Byte := s.v.toList.take n

/-- V0, V1, ... receive the bytes. -/
def State.loadRegs (s : State) (bs : List Byte) : State := { s with v := loadRun s.v 0 bs }

/-- `I <- w` (R26). -/
def State.setI (s : State) (w : Word) : State := { s with i := w }

/-- `PC <- w` (R27). -/
def State.setPc (s : State) (w : Word) : State := { s with pc := w }

/-- `DT <- b` (R32). -/
def State.setDt (s : State) (b : Byte) : State := { s with dt := b }

/-- `ST <- b` (R33). -/
def State.setSt (s : State) (b : Byte) : State := { s with st := b }

/-- `PC <- PC + 2` after the fetch and before execution (R72). -/
def State.advance (s : State) : State := s.setPc (s.pc + 2)

/-- `skip`: PC passes the following instruction, two bytes, whatever they are (R8, R108). -/
def State.skip (s : State) : State := s.setPc (s.pc + 2)

/-- A skip that is taken when the condition holds. -/
def State.skipIf (s : State) (c : Bool) : State := if c then s.skip else s

/-! ### Call stack (R30, R31) -/

/-- `SP <- n` (R31). -/
def State.setSp (s : State) (n : Fin 17) : State := { s with sp := n }

/-- `STK[k] <- w` (R30). -/
def State.setStk (s : State) (k : Fin 16) (w : Word) : State := { s with stk := s.stk.set k w }

/-- `STK[k]`. -/
def State.getStk (s : State) (k : Fin 16) : Word := s.stk[k]

/-- Push: the entry at SP is written and SP counts up; no state when SP is 16 (R102). -/
def State.push (s : State) (w : Word) : Option State :=
  if h : s.sp.val < Config.stackDepth then
    some ((s.setStk ⟨s.sp.val, h⟩ w).setSp ⟨s.sp.val + 1, Nat.succ_lt_succ h⟩)
  else none

/-- Pop: SP counts down and the entry there is the value; the entry stays (R30); nothing when SP is 0 (R100). -/
def State.pop (s : State) : Option (Word × State) :=
  if 0 < s.sp.val then
    have hk : s.sp.val - 1 < 16 := by have := s.sp.isLt; omega
    some (s.getStk ⟨s.sp.val - 1, hk⟩, s.setSp ⟨s.sp.val - 1, Nat.lt_succ_of_lt hk⟩)
  else none

/-! ### Framebuffer (R34) -/

/-- The bit of column `x` and row `y`; false outside the grid. -/
def FrameBuffer.pixelAt (fb : FrameBuffer) (x y : Nat) : Bool :=
  if h : y < Config.fbH then fb[y].getLsbD x else false

/-- `FB[p]`, `p = y * 64 + x` (R34); false for an index above 2047, which is no pixel. -/
def State.pixel (s : State) (p : Nat) : Bool := FrameBuffer.pixelAt s.fb (p % Config.fbW) (p / Config.fbW)

/-- `FB[p] <- FB[p] ^ 1`, `p = y * 64 + x` (R141). -/
def State.togglePixel (s : State) (p : Nat) : State :=
  if h : p / Config.fbW < Config.fbH then
    { s with fb := s.fb.set (p / Config.fbW) (s.fb[p / Config.fbW] ^^^ (1#64 <<< (p % Config.fbW))) }
  else s

/-- Every bit becomes 0 (R140). -/
def State.clearFb (s : State) : State := { s with fb := Vector.replicate Config.fbH 0 }

/-! ### Faults: entry, halt, and the way out (spec/60_exceptions.md) -/

/-- The code ERR records for a fault (R160). -/
def Fault.code : Fault → BitVec 3
  | .illegalInstruction => 1
  | .stackOverflow => 2
  | .stackUnderflow => 3
  | .outOfBoundsAccess => 4

/-- `ERR <- code(e)`. -/
def State.setErr (s : State) (e : BitVec 3) : State := { s with err := e }

/-- TAKING A FAULT (R163): from the state before the STEP, only ERR changes. PC is still the faulting instruction's own
address, the advance of R72 being discarded. A next state (log 4). -/
def raise (e : Fault) (s : State) : Host.Outcome State Fault Refusal := .next (s.setErr e.code)

/-- Halted: ERR ≠ 0 (R37 (b), R164). -/
def State.halted (s : State) : Bool := decide (s.err ≠ 0)

/-- THE WAY OUT OF A FAULT: there is no return from it; only the command RESET clears ERR, with all else (R165). RESET gives
every piece of core state its value of R39 and leaves the key inputs (R190); the rnd input and the count of draws (log 2) and the
parameter FONT are not state of the core and stay too. -/
def resetCommand (s : State) : State :=
  { State.reset with key := s.key, rnd := s.rnd, font := s.font, draws := s.draws }

/-! ### Fetch (R56, R71) -/

/-- Both bytes of the instruction lie in memory: PC ≤ 0xFFE (R56). -/
def State.fetchInBounds (s : State) : Bool := decide (s.pc.toNat ≤ Config.memTop - 1)

/-- The two bytes at PC and PC + 1, as they are at the start of the STEP (R71, R63). -/
def State.fetchBytes (s : State) : List Byte := s.readBytes s.pc.toNat 2

/-! ### The random input (R37) -/

/-- The random byte of this STEP: what the environment presents, else the free value of this draw (log 2). -/
def State.rndByte (s : State) : Byte := s.rnd.getD (Config.rndByte s.draws)

/-- The next draw is another one: the bytes of two draws have no relation (R37 (a), N10). -/
def State.countDraw (s : State) : State := { s with draws := s.draws + 1 }

end Sys2Proof.Machine
end

