-- ==== Sys2Proof/Machine/Operands.lean ====
section
/-! DEFINITION. The operand forms (spec/30_encoding.md R74, spec/42_index_and_memory.md R136): immediates as the unsigned
number their bits spell, the register-indirect data address, the key number, the sprite pixel. -/

namespace Sys2Proof.Machine

/-- NNN zero-extended to the sixteen bits of I and PC (R74). -/
def immAddr (nnn : BitVec 12) : Word := nnn.setWidth 16

/-- The target of BNNN: NNN + V0 as natural numbers, at most 0x10FE, so that sixteen bits hold it (R103). -/
def offsetTarget (nnn : BitVec 12) (v0 : Byte) : Word := BitVec.ofNat 16 (nnn.toNat + v0.toNat)

/-- The effective address `I + k`, a natural number that is never reduced (R57, R136). -/
def State.dataAddr (s : State) (k : Nat) : Nat := s.i.toNat + k

/-- Every address of an access of `n` bytes from I on lies in memory; checked on the last one, before any write (R57). An
access of no bytes has no address and is always in bounds. -/
def State.accessInBounds (s : State) (n : Nat) : Bool := decide (n = 0) || inMemory (s.dataAddr (n - 1))

/-- The address of glyph number `d` as FX29 computes it: the bare product, not masked and not checked (R132). -/
def glyphAddr (d : Byte) : Word := BitVec.ofNat 16 (d.toNat * Config.glyphLen)

/-- The decimal digits of a byte: hundreds, tens, ones (R133). -/
def decimalDigits (b : Byte) : List Byte :=
  [BitVec.ofNat 8 (b.toNat / 100), BitVec.ofNat 8 (b.toNat / 10 % 10), BitVec.ofNat 8 (b.toNat % 10)]

/-- The key whose number is the VALUE of a register; nothing above 15, where no key is (R150, D10). -/
def State.keyDown (s : State) (k : Byte) : Option Bool := s.key[k.toNat]?

/-- The framebuffer index of a sprite's bit: each pixel wraps on its own (R141 (b), (c)). -/
def spritePixel (x0 y0 row col : Nat) : Nat :=
  (y0 + row) % Config.fbH * Config.fbW + (x0 + col) % Config.fbW

/-- The bit of a sprite byte that column `col` shows: bit 7 is the leftmost (R141). -/
def spriteBit (b : Byte) (col : Nat) : Bool := b.getLsbD (7 - col)

end Sys2Proof.Machine
end

