-- ==== Sys2Proof/Machine/Flags.lean ====
section
/-! DEFINITION. The values VF receives as a flag (spec/10_state.md R25, spec/41_alu.md R110, R117 to R121,
spec/43_display.md R141). -/

namespace Sys2Proof.Machine

/-- A flag as the byte VF holds: exactly 0 or 1 (R25). -/
def flagByte (c : Bool) : Byte := if c then 1 else 0

/-- The carry of 8XY4: 1 exactly when the sum exceeds 255 (R110, R117). -/
def carryFlag (sum : Nat) : Byte := flagByte (decide (sum > 255))

/-- The flag of 8XY5 and 8XY7: 1 exactly when minuend > subtrahend, strictly (R110, R118, R120). -/
def noBorrowFlag (minuend subtrahend : Byte) : Byte := flagByte (decide (minuend.toNat > subtrahend.toNat))

/-- The bit 8XY6 shifts out: `VX & 1` (R119). -/
def shiftedOutLow (b : Byte) : Byte := b &&& 1

/-- The bit 8XYE shifts out: `(VX & 0x80) >> 7` (R121). -/
def shiftedOutHigh (b : Byte) : Byte := (b &&& 0x80) >>> 7

/-- VF receives a flag. -/
def State.setFlag (s : State) (f : Byte) : State := s.setV vf f

end Sys2Proof.Machine
end

