-- ==== Sys2Proof/Machine/Alu.lean ====
section
/-! DEFINITION. Register loads, arithmetic, logic, shifts, random (spec/41_alu.md R110 to R123). Statements take effect in
the order written, each read seeing the earlier writes (R9): the flag is written first, and the result reads the registers
after it, which matters when VF is X or Y (R123). All arithmetic wraps modulo 256 (R110). -/

namespace Sys2Proof.Machine

/-- `V[x] <- b`, then nothing else. -/
def writeReg (s : State) (x : RegNo) (b : Byte) : Host.Outcome State Fault Refusal := .next (s.setV x b)

/-- 6XNN LD_VX_NN (R111). -/
def execLdVxNn (x : RegNo) (nn : Byte) (s : State) : Host.Outcome State Fault Refusal :=
  writeReg s.advance x nn

/-- 7XNN ADD_VX_NN (R112): no flag. -/
def execAddVxNn (x : RegNo) (nn : Byte) (s : State) : Host.Outcome State Fault Refusal :=
  writeReg s.advance x (s.advance.getV x + nn)

/-- 8XY0 LD_VX_VY (R113). -/
def execLdVxVy (x y : RegNo) (s : State) : Host.Outcome State Fault Refusal :=
  writeReg s.advance x (s.advance.getV y)

/-- 8XY1 OR (R114): VF is not written. -/
def execOr (x y : RegNo) (s : State) : Host.Outcome State Fault Refusal :=
  writeReg s.advance x (s.advance.getV x ||| s.advance.getV y)

/-- 8XY2 AND (R115): VF is not written. -/
def execAnd (x y : RegNo) (s : State) : Host.Outcome State Fault Refusal :=
  writeReg s.advance x (s.advance.getV x &&& s.advance.getV y)

/-- 8XY3 XOR (R116): VF is not written. -/
def execXor (x y : RegNo) (s : State) : Host.Outcome State Fault Refusal :=
  writeReg s.advance x (s.advance.getV x ^^^ s.advance.getV y)

/-- 8XY4 ADD_VX_VY (R117): the sum is computed once, from the registers on entry. -/
def execAddVxVy (x y : RegNo) (s : State) : Host.Outcome State Fault Refusal :=
  let sum := (s.advance.getV x).toNat + (s.advance.getV y).toNat
  writeReg (s.advance.setFlag (carryFlag sum)) x (BitVec.ofNat 8 sum)

/-- 8XY5 SUB (R118): the subtraction reads the registers after VF was written. -/
def execSub (x y : RegNo) (s : State) : Host.Outcome State Fault Refusal :=
  let t := s.advance.setFlag (noBorrowFlag (s.advance.getV x) (s.advance.getV y))
  writeReg t x (t.getV x - t.getV y)

/-- 8XY6 SHR (R119): VX only, the Y nibble is ignored (R77, D15). -/
def execShr (x : RegNo) (s : State) : Host.Outcome State Fault Refusal :=
  let t := s.advance.setFlag (shiftedOutLow (s.advance.getV x))
  writeReg t x (t.getV x >>> 1)

/-- 8XY7 SUBN (R120): the subtraction reads the registers after VF was written. -/
def execSubn (x y : RegNo) (s : State) : Host.Outcome State Fault Refusal :=
  let t := s.advance.setFlag (noBorrowFlag (s.advance.getV y) (s.advance.getV x))
  writeReg t x (t.getV y - t.getV x)

/-- 8XYE SHL (R121): VX only, the Y nibble is ignored (R77, D15). -/
def execShl (x : RegNo) (s : State) : Host.Outcome State Fault Refusal :=
  let t := s.advance.setFlag (shiftedOutHigh (s.advance.getV x))
  writeReg t x (t.getV x <<< 1)

/-- CXNN RND (R122): the random byte of this STEP, masked. -/
def execRnd (x : RegNo) (nn : Byte) (s : State) : Host.Outcome State Fault Refusal :=
  writeReg s.advance.countDraw x (s.rndByte &&& nn)

end Sys2Proof.Machine
end

