-- ==== Sys2Proof/Machine/Display.lean ====
section
/-! DEFINITION. Framebuffer clear, sprite draw and collision detection (spec/43_display.md R140 to R142). -/

namespace Sys2Proof.Machine

/-- 00E0 CLS (R140): VF is not written. -/
def execCls (s : State) : Host.Outcome State Fault Refusal := .next s.advance.clearFb

/-- The framebuffer indices that the 1 bits of one sprite byte land on, most significant bit first (R141). -/
def rowPixels (b : Byte) (x0 y0 row : Nat) : List Nat :=
  ((List.range 8).filter (spriteBit b)).map (spritePixel x0 y0 row)

/-- The framebuffer indices that the 1 bits of an `n`-row sprite at I land on, in the order they are drawn (R141). -/
def State.spritePixels (s : State) (x0 y0 n : Nat) : List Nat :=
  (List.range n).flatMap fun row => rowPixels (s.readByte (s.dataAddr row)) x0 y0 row

/-- One 1 bit is drawn: VF becomes 1 if its pixel is lit, and the pixel is toggled (R141). -/
def State.drawPixel (s : State) (p : Nat) : State :=
  (if s.pixel p then s.setFlag (flagByte true) else s).togglePixel p

/-- DXYN DRW (R141). VF is cleared first, then VX and VY are read once (D13), so that a coordinate taken from VF is 0. N = 0
reads no memory, cannot fault and only clears VF (D25). -/
def execDrw (x y : RegNo) (n : Nat) (s : State) : Host.Outcome State Fault Refusal :=
  if s.accessInBounds n then
    let t := s.advance.setFlag (flagByte false)
    .next ((t.spritePixels (t.getV x).toNat (t.getV y).toNat n).foldl State.drawPixel t)
  else raise .outOfBoundsAccess s

end Sys2Proof.Machine
end

