-- ==== Sys2Proof/Machine/Flow.lean ====
section
/-! DEFINITION. Control transfer (spec/40_flow_and_skips.md R100 to R108). Every meaning takes the state BEFORE the STEP (PC
is the instruction's own address), advances PC (R72) and executes; a fault is raised on that same state (log 4). -/

namespace Sys2Proof.Machine

/-- 00EE RET (R100). -/
def execRet (s : State) : Host.Outcome State Fault Refusal :=
  match s.advance.pop with
  | none => raise .stackUnderflow s
  | some (target, s') => .next (s'.setPc target)

/-- 1NNN JP (R101). -/
def execJp (nnn : BitVec 12) (s : State) : Host.Outcome State Fault Refusal :=
  .next (s.advance.setPc (immAddr nnn))

/-- 2NNN CALL (R102): the advanced PC is pushed. -/
def execCall (nnn : BitVec 12) (s : State) : Host.Outcome State Fault Refusal :=
  match s.advance.push s.advance.pc with
  | none => raise .stackOverflow s
  | some s' => .next (s'.setPc (immAddr nnn))

/-- BNNN JP_V0_NNN (R103): the offset register is always V0. -/
def execJpV0Nnn (nnn : BitVec 12) (s : State) : Host.Outcome State Fault Refusal :=
  .next (s.advance.setPc (offsetTarget nnn (s.advance.getV 0)))

/-- 3XNN SE_VX_NN (R104). -/
def execSeVxNn (x : RegNo) (nn : Byte) (s : State) : Host.Outcome State Fault Refusal :=
  .next (s.advance.skipIf (decide (s.advance.getV x = nn)))

/-- 4XNN SNE_VX_NN (R105). -/
def execSneVxNn (x : RegNo) (nn : Byte) (s : State) : Host.Outcome State Fault Refusal :=
  .next (s.advance.skipIf (decide (s.advance.getV x ≠ nn)))

/-- 5XY0 SE_VX_VY (R106). -/
def execSeVxVy (x y : RegNo) (s : State) : Host.Outcome State Fault Refusal :=
  .next (s.advance.skipIf (decide (s.advance.getV x = s.advance.getV y)))

/-- 9XY0 SNE_VX_VY (R107). -/
def execSneVxVy (x y : RegNo) (s : State) : Host.Outcome State Fault Refusal :=
  .next (s.advance.skipIf (decide (s.advance.getV x ≠ s.advance.getV y)))

end Sys2Proof.Machine
end

