-- ==== Sys2Proof/Machine/Index.lean ====
section
/-! DEFINITION. The address register, decimal store, register block store and load (spec/42_index_and_memory.md R130 to
R136). I is never changed by an access; every bounds check is made before anything is written (R57). -/

namespace Sys2Proof.Machine

/-- ANNN LD_I_NNN (R130). -/
def execLdINnn (nnn : BitVec 12) (s : State) : Host.Outcome State Fault Refusal :=
  .next (s.advance.setI (immAddr nnn))

/-- FX1E ADD_I_VX (R131): a sum that sixteen bits do not hold faults; any other is stored, above 0xFFF too; no flag. -/
def execAddIVx (x : RegNo) (s : State) : Host.Outcome State Fault Refusal :=
  let sum := s.i.toNat + (s.getV x).toNat
  if sum > 0xFFFF then raise .outOfBoundsAccess s else .next (s.advance.setI (BitVec.ofNat 16 sum))

/-- FX29 LD_F_VX (R132). -/
def execLdFVx (x : RegNo) (s : State) : Host.Outcome State Fault Refusal :=
  .next (s.advance.setI (glyphAddr (s.advance.getV x)))

/-- FX33 LD_B_VX (R133): three bytes, always. -/
def execLdBVx (x : RegNo) (s : State) : Host.Outcome State Fault Refusal :=
  if s.accessInBounds 3 then .next (s.advance.writeBytes (s.dataAddr 0) (decimalDigits (s.getV x)))
  else raise .outOfBoundsAccess s

/-- FX55 LD_MEM_VX (R134): V0 to VX inclusive. -/
def execLdMemVx (x : RegNo) (s : State) : Host.Outcome State Fault Refusal :=
  if s.accessInBounds (x.val + 1) then .next (s.advance.writeBytes (s.dataAddr 0) (s.firstRegs (x.val + 1)))
  else raise .outOfBoundsAccess s

/-- FX65 LD_VX_MEM (R135): V0 to VX inclusive. -/
def execLdVxMem (x : RegNo) (s : State) : Host.Outcome State Fault Refusal :=
  if s.accessInBounds (x.val + 1) then .next (s.advance.loadRegs (s.readBytes (s.dataAddr 0) (x.val + 1)))
  else raise .outOfBoundsAccess s

end Sys2Proof.Machine
end

