-- ==== Sys2Proof/Machine/KeysTimers.lean ====
section
/-! DEFINITION. Key-conditional skips and timer access (spec/44_keys_and_timers.md R150 to R154). -/

namespace Sys2Proof.Machine

/-- EX9E SKP (R150): the key number is the value of VX; above 15 there is no key (D10). -/
def execSkp (x : RegNo) (s : State) : Host.Outcome State Fault Refusal :=
  match s.keyDown (s.getV x) with
  | none => raise .outOfBoundsAccess s
  | some down => .next (s.advance.skipIf down)

/-- EXA1 SKNP (R151). -/
def execSknp (x : RegNo) (s : State) : Host.Outcome State Fault Refusal :=
  match s.keyDown (s.getV x) with
  | none => raise .outOfBoundsAccess s
  | some down => .next (s.advance.skipIf (!down))

/-- FX07 LD_VX_DT (R152). -/
def execLdVxDt (x : RegNo) (s : State) : Host.Outcome State Fault Refusal := .next (s.advance.setV x s.dt)

/-- FX15 LD_DT_VX (R153). -/
def execLdDtVx (x : RegNo) (s : State) : Host.Outcome State Fault Refusal := .next (s.advance.setDt (s.getV x))

/-- FX18 LD_ST_VX (R154). -/
def execLdStVx (x : RegNo) (s : State) : Host.Outcome State Fault Refusal := .next (s.advance.setSt (s.getV x))

end Sys2Proof.Machine
end

