-- ==== Sys2Proof/Machine/Step.lean ====
section
/-! DEFINITION. The command STEP (spec/30_encoding.md R70) and the state that has a given word where the next STEP fetches
it. -/

namespace Sys2Proof.Machine

/-- STEP (R70) with the rnd input as `s` holds it, its checks in the order of R167: halted, fetch bounds, decode, the
instruction. -/
def step (s : State) : Host.Outcome State Fault Refusal :=
  if s.halted then .next s
  else if s.fetchInBounds then
    match decode s.fetchBytes with
    | .ok (i, _) => exec i s
    | .error _ => raise .illegalInstruction s
  else raise .outOfBoundsAccess s

/-- `s` with the word `w` (its bits at `nbits` and above being zero) where `step` fetches its next instruction: at PC, high
byte first (R52). A STEP fetches nothing while ERR ≠ 0 (R164) or PC > 0xFFE (R56): then, and only then, ERR is cleared and PC
is put at 0x200. It stands for the command LOAD (log 6). -/
def State.withFetchWord (s : State) (nbits w : Nat) : State :=
  let t := if s.halted then s.setErr 0 else s
  let t := if t.fetchInBounds then t else t.setPc (BitVec.ofNat 16 Config.progBase)
  t.writeBytes t.pc.toNat (bytesOfWord (BitVec.ofNat 16 (w % 2 ^ nbits)))

end Sys2Proof.Machine
end

