-- ==== Sys2Proof/Machine/Commands.lean ====
section
/-! DEFINITION. The commands of the environment (spec/00_scope.md R10, R11; spec/70_reset_and_hazards.md R204): one function
each over the one state, and the outputs it may read. RESET itself is `resetCommand` of Machine/Ops.lean. -/

namespace Sys2Proof.Machine

/-- The five commands (R10). -/
inductive Command where
  | reset                              -- RESET, R190
  | load (bytes : List Byte)           -- LOAD(bytes), R193
  | step (rnd : Byte)                  -- STEP(rnd), R70
  | tick                               -- TICK, R175
  | setKey (k : Fin 16) (down : Bool)  -- SETKEY(k, b), R178
  deriving DecidableEq, Repr

/-- LOAD (R193): the bytes at 0x200 on and nothing else; a sequence of more than 3584 is refused whole (R194). -/
def loadCommand (bytes : List Byte) (s : State) : Host.Outcome State Fault Refusal :=
  if bytes.length ≤ Config.maxProg then .next (s.writeBytes Config.progBase bytes) else .refused .loadTooLong

/-- A timer after one TICK: it stops at 0 (R175). -/
def countDown (b : Byte) : Byte := if b = 0 then 0 else b - 1

/-- TICK (R175): both timers, halted or not. -/
def tickCommand (s : State) : State := (s.setDt (countDown s.dt)).setSt (countDown s.st)

/-- SETKEY (R178). -/
def setKeyCommand (k : Fin 16) (down : Bool) (s : State) : State := { s with key := s.key.set k down }

/-- The environment presents a random byte, or lets it go. -/
def State.setRnd (s : State) (r : Option Byte) : State := { s with rnd := r }

/-- STEP(rnd) (R70): one step during which the rnd input is the given byte; afterwards the input is as before. -/
def stepCommand (r : Byte) (s : State) : Host.Outcome State Fault Refusal :=
  match step (s.setRnd (some r)) with
  | .next t => .next (t.setRnd s.rnd)
  | .fault e => .fault e
  | .refused e => .refused e

/-- One command (R11: atomic, in any state). -/
def command : Command → State → Host.Outcome State Fault Refusal
  | .reset, s => .next (resetCommand s)
  | .load bytes, s => loadCommand bytes s
  | .step r, s => stepCommand r s
  | .tick, s => .next (tickCommand s)
  | .setKey k down, s => .next (setKeyCommand k down s)

/-- A run: commands one after the other (R11). -/
def run : List Command → State → Host.Outcome State Fault Refusal
  | [], s => .next s
  | c :: cs, s =>
    match command c s with
    | .next t => run cs t
    | .fault e => .fault e
    | .refused e => .refused e

/-- The output SOUND (R180). -/
def State.sound (s : State) : Bool := decide (s.st ≠ 0)

/-- The output FB, 2048 bits in row-major order (R179). -/
def State.frame (s : State) : List Bool := (List.range (Config.fbW * Config.fbH)).map s.pixel

end Sys2Proof.Machine
end

