-- ==== Sys2Proof/Safety.lean ====
section
/-! DEFINITION. The terms in which claims speak: what a safe run is (spec/60_exceptions.md R164), the launch state (R196,
R197), the rest state (R12), frames over the pieces of state (R65), the invariant of every run (R29, R31, R36). -/

namespace Sys2Proof.Machine

/-! ### Safe runs -/

/-- NoFault (R197): the core is not halted. -/
abbrev NoFault (s : State) : Prop := s.err = 0

/-- A run without a fault: ERR = 0 THROUGHOUT, at the start, after every command and so at the end, and no command refused. A
claim about a program assumes it, and a run that faults is none, a later RESET notwithstanding (R164). -/
def SafeRun : List Command → State → Prop
  | [], s => NoFault s
  | c :: cs, s => NoFault s ∧ ∃ t, command c s = .next t ∧ SafeRun cs t

/-- The states some sequence of commands reaches from the reset state (R11, R191). -/
inductive Reachable : State → Prop where
  | reset : Reachable State.reset
  | command {s t : State} (c : Command) : Reachable s → command c s = .next t → Reachable t

/-- At rest (R12): not halted, and the instruction at PC is a jump to itself. -/
def AtRest (s : State) : Prop :=
  NoFault s ∧ s.fetchInBounds = true ∧ ∃ nnn rest, decode s.fetchBytes = .ok (.jp nnn, rest) ∧ immAddr nnn = s.pc

/-- Booted(P) (R196, R197): the state after RESET and LOAD(P). KEY is as the environment has it. -/
structure Booted (P : List Byte) (s : State) : Prop where
  program   : ∀ (j : Nat) (h : j < P.length), s.readByte (Config.progBase + j) = P[j]
  elsewhere : ∀ a, a < Config.progBase ∨ Config.progBase + P.length ≤ a → s.readByte a = Memory.unlisted s.font a
  regs      : ∀ r, s.getV r = 0
  index     : s.i = 0
  counter   : s.pc = 0x200
  entries   : ∀ k, s.getStk k = 0
  depth     : s.sp = 0
  timers    : s.dt = 0 ∧ s.st = 0
  dark      : ∀ p, s.pixel p = false
  noFault   : NoFault s

/-! ### Frames -/

/-- The pieces of a state. -/
inductive Part where
  | mem | v | i | pc | stk | sp | dt | st | fb | err | key | rnd | font | draws
  deriving DecidableEq, Repr

/-- Two states hold the same in one piece: every byte of memory, every register, every entry, every pixel. -/
def Agree (s t : State) : Part → Prop
  | .mem => ∀ a, t.readByte a = s.readByte a
  | .v => ∀ r, t.getV r = s.getV r
  | .i => t.i = s.i
  | .pc => t.pc = s.pc
  | .stk => ∀ k, t.getStk k = s.getStk k
  | .sp => t.sp = s.sp
  | .dt => t.dt = s.dt
  | .st => t.st = s.st
  | .fb => ∀ p, t.pixel p = s.pixel p
  | .err => t.err = s.err
  | .key => t.key = s.key
  | .rnd => t.rnd = s.rnd
  | .font => t.font = s.font
  | .draws => t.draws = s.draws

/-- Everything but the listed pieces is unchanged from `s` to `t`. -/
def Frame (written : List Part) (s t : State) : Prop := ∀ p, p ∉ written → Agree s t p

/-- Every register outside the list is unchanged. -/
def OtherRegs (written : List RegNo) (s t : State) : Prop := ∀ r, r ∉ written → t.getV r = s.getV r

/-- Every byte of memory outside the `n` bytes from `a` on is unchanged. -/
def OtherBytes (a n : Nat) (s t : State) : Prop := ∀ c, c < a ∨ a + n ≤ c → t.readByte c = s.readByte c

/-- The pieces an instruction may write when it does not fault (R25, R26, R28, R30 to R34, R65). -/
def writtenParts : Instr → List Part
  | .cls => [.fb, .pc]
  | .ret => [.sp, .pc]
  | .jp _ | .jpV0Nnn _ => [.pc]
  | .call _ => [.stk, .sp, .pc]
  | .seVxNn _ _ | .sneVxNn _ _ | .seVxVy _ _ | .sneVxVy _ _ | .skp _ | .sknp _ => [.pc]
  | .ldVxNn _ _ | .addVxNn _ _ | .ldVxVy _ _ | .or _ _ | .and _ _ | .xor _ _ => [.v, .pc]
  | .addVxVy _ _ | .sub _ _ | .shr _ _ | .subn _ _ | .shl _ _ => [.v, .pc]
  | .rnd _ _ => [.v, .draws, .pc]
  | .ldINnn _ | .addIVx _ | .ldFVx _ => [.i, .pc]
  | .drw _ _ _ => [.fb, .v, .pc]
  | .ldVxDt _ | .ldVxMem _ => [.v, .pc]
  | .ldDtVx _ => [.dt, .pc]
  | .ldStVx _ => [.st, .pc]
  | .ldBVx _ | .ldMemVx _ => [.mem, .pc]

/-- The registers an instruction may write: its destination, the run V0..VX of FX65, and VF where it is the flag (R25). -/
def writtenRegs : Instr → List RegNo
  | .ldVxNn x _ | .addVxNn x _ | .ldVxVy x _ | .or x _ | .and x _ | .xor x _ | .rnd x _ | .ldVxDt x => [x]
  | .addVxVy x _ | .sub x _ | .shr x _ | .subn x _ | .shl x _ => [x, vf]
  | .drw _ _ _ => [vf]
  | .ldVxMem x => (List.finRange 16).filter (· ≤ x)
  | .cls | .ret | .jp _ | .call _ | .ldINnn _ | .jpV0Nnn _ => []
  | .seVxNn _ _ | .sneVxNn _ _ | .seVxVy _ _ | .sneVxVy _ _ | .skp _ | .sknp _ => []
  | .ldDtVx _ | .ldStVx _ | .addIVx _ | .ldFVx _ | .ldBVx _ | .ldMemVx _ => []

/-- How many bytes an instruction stores from `I` on (R53). -/
def storedCount : Instr → Nat
  | .ldBVx _ => 3
  | .ldMemVx x => x.val + 1
  | .cls | .ret | .jp _ | .call _ | .ldINnn _ | .jpV0Nnn _ => 0
  | .seVxNn _ _ | .sneVxNn _ _ | .seVxVy _ _ | .sneVxVy _ _ | .skp _ | .sknp _ => 0
  | .ldVxNn _ _ | .addVxNn _ _ | .ldVxVy _ _ | .or _ _ | .and _ _ | .xor _ _ => 0
  | .addVxVy _ _ | .sub _ _ | .shr _ _ | .subn _ _ | .shl _ _ | .rnd _ _ | .drw _ _ _ => 0
  | .ldVxDt _ | .ldDtVx _ | .ldStVx _ | .addIVx _ | .ldFVx _ | .ldVxMem _ => 0

/-- What an instruction that cannot fault does to PC: the flow of R28, except the values jumps and returns set. -/
inductive PcKind where
  | fallThrough | skip | transfer
  deriving DecidableEq, Repr

/-- The three ways of R28 in which an instruction leaves PC: 23 fall through, 6 skip, 4 transfer. -/
def pcKind : Instr → PcKind
  | .jp _ | .call _ | .jpV0Nnn _ | .ret => .transfer
  | .seVxNn _ _ | .sneVxNn _ _ | .seVxVy _ _ | .sneVxVy _ _ | .skp _ | .sknp _ => .skip
  | .cls | .ldINnn _ | .addIVx _ | .ldFVx _ | .ldBVx _ | .ldMemVx _ | .ldVxMem _ => .fallThrough
  | .ldVxNn _ _ | .addVxNn _ _ | .ldVxVy _ _ | .or _ _ | .and _ _ | .xor _ _ => .fallThrough
  | .addVxVy _ _ | .sub _ _ | .shr _ _ | .subn _ _ | .shl _ _ | .rnd _ _ | .drw _ _ _ => .fallThrough
  | .ldVxDt _ | .ldDtVx _ | .ldStVx _ => .fallThrough

/-- The fault an instruction can raise, if any (R162). -/
def possibleFault : Instr → Option Fault
  | .call _ => some .stackOverflow
  | .ret => some .stackUnderflow
  | .drw _ _ _ | .ldBVx _ | .ldMemVx _ | .ldVxMem _ | .addIVx _ | .skp _ | .sknp _ => some .outOfBoundsAccess
  | .cls | .jp _ | .ldINnn _ | .jpV0Nnn _ | .ldFVx _ => none
  | .seVxNn _ _ | .sneVxNn _ _ | .seVxVy _ _ | .sneVxVy _ _ => none
  | .ldVxNn _ _ | .addVxNn _ _ | .ldVxVy _ _ | .or _ _ | .and _ _ | .xor _ _ => none
  | .addVxVy _ _ | .sub _ _ | .shr _ _ | .subn _ _ | .shl _ _ | .rnd _ _ => none
  | .ldVxDt _ | .ldDtVx _ | .ldStVx _ => none

/-! ### Values claims compare with -/

/-- `V[r]` after VF received the flag `f`: what the second statement of 8XY5 to 8XYE reads (R9, R118). -/
def regAfterFlag (s : State) (f : Byte) (r : RegNo) : Byte := if r = vf then f else s.getV r

/-- A sprite coordinate as DXYN reads it, after VF was cleared (R141 (e)). -/
def drawCoord (s : State) (x : RegNo) : Nat := if x = vf then 0 else (s.getV x).toNat

/-- Some 1 bit of the `n`-row sprite at I, drawn at (x0, y0), lands on framebuffer index `p` (R141). -/
def SpriteCovers (s : State) (x0 y0 n p : Nat) : Prop :=
  ∃ row, row < n ∧ ∃ col, col < 8 ∧
    (s.readByte (s.i.toNat + row)).getLsbD (7 - col) = true ∧
    p = (y0 + row) % 32 * 64 + (x0 + col) % 64

/-! ### The invariant of every run -/

/-- What holds in every reachable state: memory in canonical form, PC at most 0x10FE (R29), every stack entry at most 0x1000
(R29), ERR one of the codes 0 to 4 (R36). SP is at most 16 by its type (R31). -/
structure RunInv (s : State) : Prop where
  memory  : Memory.wf s.font s.mem
  counter : s.pc.toNat ≤ 0x10FE
  entries : ∀ k, (s.getStk k).toNat ≤ 0x1000
  fault   : s.err.toNat ≤ 4

end Sys2Proof.Machine
end

