-- ==== Sys2Proof/Certificates/Slice0/Obligations.lean ====
section
/-! DEFINITION. The statements about this machine. Each docstring names the rule of the spec it comes from. Register contents
are read by `getV`, memory by `readByte`, the framebuffer by `pixel`, the stack by `getStk`; `Frame` lists what may have
changed and says that every other piece of the state is the same. -/

open Sys2Proof Sys2Proof.Machine

/-! ### Encoding (spec/30_encoding.md) -/

/-- R73, R75: decoding the bytes of a well-formed instruction gives it back, whatever follows. (That the term of 8XY6 and 8XYE
keeps the ignored Y nibble, so that it comes back too, is the model's choice, log 9.) -/
def Obligations.DecodeEncodeAgree : Prop :=
  ∀ (i : Instr) (rest : List Byte), WellFormed i → decode (encode i ++ rest) = .ok (i, rest)

/-- R73: a word that decodes is the word of its instruction, so no bit of it is dropped. That this holds of the Y nibble of 8XY6
and 8XYE too is the model's choice, log 9: the term keeps the nibble; the spec says only that it is ignored (R77). -/
def Obligations.EncodeDecodeAgree : Prop :=
  ∀ (w : Word) (i : Instr), decodeWord w = .ok i → WellFormed i ∧ encodeWord i = w

/-- R75, R76: the decoder answers exactly as the opcode table does: one row is hit, with the instruction's mnemonic, or none
is hit and the word is rejected. (That the match is strict on every literal nibble is the spec's choice C2, D14.) -/
def Obligations.DecodeFollowsOpcodeTable : Prop :=
  ∀ w : Word,
    match decodeWord w with
    | .ok i => (opcodeTable.filter (·.hits w)).map Row.mnemonic = [mnemonic i]
    | .error _ => opcodeTable.filter (·.hits w) = []

/-- R78: the illegal words, class by class (strictness is the spec's choice D14). -/
def Obligations.IllegalWordsByClass : Prop :=
  ∀ w : Word,
    (decodeWord w = .error .family0 ↔ nibA w = 0 ∧ w ≠ 0x00E0 ∧ w ≠ 0x00EE) ∧
    (decodeWord w = .error .family5 ↔ nibA w = 5 ∧ nibD w ≠ 0) ∧
    (decodeWord w = .error .family8 ↔ nibA w = 8 ∧ nibD w ∈ [0x8, 0x9, 0xA, 0xB, 0xC, 0xD, 0xF]) ∧
    (decodeWord w = .error .family9 ↔ nibA w = 9 ∧ nibD w ≠ 0) ∧
    (decodeWord w = .error .familyE ↔ nibA w = 0xE ∧ fieldNN w ∉ [0x9E, 0xA1]) ∧
    (decodeWord w = .error .familyF ↔
      nibA w = 0xF ∧ fieldNN w ∉ [0x07, 0x15, 0x18, 0x1E, 0x29, 0x33, 0x55, 0x65]) ∧
    decodeWord w ≠ .error .tooShort

/-- R75, R77, R78: words written out from the encodings decode to what they stand for. -/
def Obligations.SampleWordsDecode : Prop :=
  decodeWord 0x00E0 = .ok .cls ∧ decodeWord 0x1204 = .ok (.jp 0x204) ∧ decodeWord 0x8125 = .ok (.sub 1 2) ∧
  decodeWord 0xA300 = .ok (.ldINnn 0x300) ∧ decodeWord 0xD012 = .ok (.drw 0 1 2) ∧ decodeWord 0xE49E = .ok (.skp 4) ∧
  decodeWord 0xF265 = .ok (.ldVxMem 2) ∧ decodeWord 0xF00A = .error .familyF

/-! ### The step (spec/30_encoding.md R70, spec/60_exceptions.md) -/

/-- R70, R71: when the word at PC decodes to `i`, one step from a state that is not halted is `exec i`, which advances PC
itself (R72; log 4). The command STEP(r) is that step with the random input presenting `r`, and the input is put back after it
(the input as a field of State is the model's choice, log 2). -/
def Obligations.StepRunsDecodedInstruction : Prop :=
  (∀ (s : State) (i : Instr), s.err = 0 → s.pc.toNat ≤ 0xFFE →
    decodeWord (wordOfBytes (s.readByte s.pc.toNat) (s.readByte (s.pc.toNat + 1))) = .ok i → step s = exec i s) ∧
  ∀ (s : State) (r : Byte), ∃ t, step (s.setRnd (some r)) = .next t ∧ command (.step r) s = .next (t.setRnd s.rnd)

/-- R164, R56, R78, R167: halted, nothing; else PC > 0xFFE, ERR := 4 only; else no instruction, ERR := 1 only. (The halt's form,
the fetch bound, the state after a fault and its code are the spec's choices D4, D6, D3, D2, log 5; a fault as a next state is
the model's reading, log 4.) -/
def Obligations.StepChecksInOrder : Prop :=
  ∀ s : State,
    (s.err ≠ 0 → step s = .next s) ∧
    (s.err = 0 → 0xFFE < s.pc.toNat → step s = .next { s with err := 4 }) ∧
    (s.err = 0 → s.pc.toNat ≤ 0xFFE → ∀ r,
      decodeWord (wordOfBytes (s.readByte s.pc.toNat) (s.readByte (s.pc.toNat + 1))) = .error r →
      step s = .next { s with err := 1 })

/-- R70, R163, R164 (a fault as a next state is the model's reading, log 4): a step always answers a next state, and so does
every instruction, from any state. -/
def Obligations.EveryStepAnswersNext : Prop :=
  (∀ s : State, ∃ t, step s = .next t) ∧ ∀ (i : Instr) (s : State), ∃ t, exec i s = .next t

/-- R163 (the spec's choices D3 and, for the codes, D2; a fault as a next state is log 4): a step that records a fault changes
ERR and nothing else, and ERR is then 1 to 4. -/
def Obligations.FaultEntryIsPrecise : Prop :=
  ∀ s t : State, s.err = 0 → step s = .next t → t.err ≠ 0 →
    t = { s with err := t.err } ∧ 1 ≤ t.err.toNat ∧ t.err.toNat ≤ 4

/-- R162: which instruction can record which fault; the other 24 record none. That the state is then the old one with ERR
replaced is the spec's choice D3 with the codes of D2 (log 5), and that it is a next state is the model's reading, log 4. -/
def Obligations.OnlyNamedInstructionsFault : Prop :=
  ∀ (i : Instr) (s t : State), exec i s = .next t → t.err = s.err ∨
    ∃ e, possibleFault i = some e ∧ t = { s with err := e.code }

/-- R164, R165, R36 (D2, D4): from a halted state, whatever commands come and whatever their order, as long as none is RESET,
only memory, the two timers and the key inputs may change: ERR, PC and all else stay. -/
def Obligations.HaltedUntilReset : Prop :=
  ∀ (cs : List Command) (s t : State), s.err ≠ 0 → (∀ c ∈ cs, c ≠ .reset) → run cs s = .next t →
    Frame [.mem, .dt, .st, .key] s t

/-! ### Whole-machine rules -/

/-- R65, R25, R26, R30 to R34, R53: what each instruction may write; every other piece of state, every other register and
every byte outside the stored ones are unchanged. -/
def Obligations.EveryInstructionKeepsItsFrame : Prop :=
  ∀ (i : Instr) (s t : State), exec i s = .next t → t.err = s.err →
    Frame (writtenParts i) s t ∧ OtherRegs (writtenRegs i) s t ∧ OtherBytes (s.dataAddr 0) (storedCount i) s t

/-- R28: the 23 fall-through instructions leave PC at own address + 2, the six skips at + 2 or + 4, and the transfers at their
target; a fault leaves it (D3). -/
def Obligations.PcAfterEachInstruction : Prop :=
  ∀ (i : Instr) (s t : State), s.err = 0 → exec i s = .next t →
    (t.err ≠ 0 → t.pc = s.pc) ∧
    (t.err = 0 →
      match pcKind i with
      | .fallThrough => t.pc = s.pc + 2
      | .skip => t.pc = s.pc + 2 ∨ t.pc = s.pc + 4
      | .transfer =>
        (∀ nnn, i = .jp nnn ∨ i = .call nnn → t.pc.toNat = nnn.toNat) ∧
        (∀ nnn, i = .jpV0Nnn nnn → t.pc.toNat = nnn.toNat + (s.getV 0).toNat) ∧
        (i = .ret → ∀ k : Fin 16, k.val + 1 = s.sp.val → t.pc = s.getStk k))

/-- R25, S1: with X other than F, the five arithmetic instructions that write a flag leave VF at exactly 0 or 1, and DXYN
does for every X and Y, in a run without a fault: ERR is 0 before and after. -/
def Obligations.FlagsAreZeroOrOne : Prop :=
  ∀ (i : Instr) (s t : State), NoFault s → exec i s = .next t → NoFault t →
    (∃ x y, x ≠ vf ∧ (i = .addVxVy x y ∨ i = .sub x y ∨ i = .shr x y ∨ i = .subn x y ∨ i = .shl x y)) ∨
      (∃ x y n, n < 16 ∧ i = .drw x y n) →
    t.getV vf = 0 ∨ t.getV vf = 1

/-- R35, R178: the key inputs matter to SKP and SKNP alone. -/
def Obligations.KeysReadOnlyByKeySkips : Prop :=
  ∀ (i : Instr) (s t : State) (k : Fin 16) (down : Bool), (∀ x, i ≠ .skp x ∧ i ≠ .sknp x) → exec i s = .next t →
    exec i (setKeyCommand k down s) = .next (setKeyCommand k down t)

/-- R37: the random input matters to CXNN alone. -/
def Obligations.RandomInputReadOnlyByRnd : Prop :=
  ∀ (i : Instr) (s t : State) (r : Option Byte), (∀ x nn, i ≠ .rnd x nn) → exec i s = .next t →
    exec i (s.setRnd r) = .next (t.setRnd r)

/-! ### Register loads, arithmetic, logic, shifts, random (spec/41_alu.md) -/

/-- R111. -/
def Obligations.LoadImmediateResult : Prop :=
  ∀ (x : RegNo) (nn : Byte) (s : State),
    decodeWord (wordXNN 0x6 x nn) = .ok (.ldVxNn x nn) ∧
    ∃ t, exec (.ldVxNn x nn) s = .next t ∧ t.getV x = nn ∧ OtherRegs [x] s t ∧ t.pc = s.pc + 2 ∧ Frame [.v, .pc] s t

/-- R112: the sum modulo 256, no flag. -/
def Obligations.AddImmediateResult : Prop :=
  ∀ (x : RegNo) (nn : Byte) (s : State),
    decodeWord (wordXNN 0x7 x nn) = .ok (.addVxNn x nn) ∧
    ∃ t, exec (.addVxNn x nn) s = .next t ∧ (t.getV x).toNat = ((s.getV x).toNat + nn.toNat) % 256 ∧
      OtherRegs [x] s t ∧ t.pc = s.pc + 2 ∧ Frame [.v, .pc] s t

/-- R113. -/
def Obligations.CopyRegisterResult : Prop :=
  ∀ (x y : RegNo) (s : State),
    decodeWord (wordXYD 0x8 x y 0x0) = .ok (.ldVxVy x y) ∧
    ∃ t, exec (.ldVxVy x y) s = .next t ∧ t.getV x = s.getV y ∧ OtherRegs [x] s t ∧ t.pc = s.pc + 2 ∧
      Frame [.v, .pc] s t

/-- R114, R115, R116: bit by bit, and VF is not written. -/
def Obligations.LogicResults : Prop :=
  ∀ (x y : RegNo) (s : State),
    (decodeWord (wordXYD 0x8 x y 0x1) = .ok (.or x y) ∧
      ∃ t, exec (.or x y) s = .next t ∧
        (∀ k, (t.getV x).getLsbD k = ((s.getV x).getLsbD k || (s.getV y).getLsbD k)) ∧
        OtherRegs [x] s t ∧ t.pc = s.pc + 2 ∧ Frame [.v, .pc] s t) ∧
    (decodeWord (wordXYD 0x8 x y 0x2) = .ok (.and x y) ∧
      ∃ t, exec (.and x y) s = .next t ∧
        (∀ k, (t.getV x).getLsbD k = ((s.getV x).getLsbD k && (s.getV y).getLsbD k)) ∧
        OtherRegs [x] s t ∧ t.pc = s.pc + 2 ∧ Frame [.v, .pc] s t) ∧
    (decodeWord (wordXYD 0x8 x y 0x3) = .ok (.xor x y) ∧
      ∃ t, exec (.xor x y) s = .next t ∧
        (∀ k, (t.getV x).getLsbD k = ((s.getV x).getLsbD k ^^ (s.getV y).getLsbD k)) ∧
        OtherRegs [x] s t ∧ t.pc = s.pc + 2 ∧ Frame [.v, .pc] s t)

/-- R117: VX is the sum modulo 256 and VF is the carry; with X = F the sum is written last and overwrites the carry in VF (R9,
R123: the order is the spec's choice D12, log 5). -/
def Obligations.AddRegistersResult : Prop :=
  ∀ (x y : RegNo) (s : State),
    decodeWord (wordXYD 0x8 x y 0x4) = .ok (.addVxVy x y) ∧
    ∃ t, exec (.addVxVy x y) s = .next t ∧
      (t.getV x).toNat = ((s.getV x).toNat + (s.getV y).toNat) % 256 ∧
      (x ≠ vf → t.getV vf = if (s.getV x).toNat + (s.getV y).toNat > 255 then 1 else 0) ∧
      OtherRegs [x, vf] s t ∧ t.pc = s.pc + 2 ∧ Frame [.v, .pc] s t

/-- R118, R120: VF is 1 when the minuend is strictly greater, and the difference modulo 256 reads the registers after VF
received it (R9; the order is the spec's choice D12), for every X and Y. -/
def Obligations.SubtractResults : Prop :=
  ∀ (x y : RegNo) (s : State),
    (decodeWord (wordXYD 0x8 x y 0x5) = .ok (.sub x y) ∧
      let f : Byte := if (s.getV y).toNat < (s.getV x).toNat then 1 else 0
      ∃ t, exec (.sub x y) s = .next t ∧
        (t.getV x).toNat = ((regAfterFlag s f x).toNat + 256 - (regAfterFlag s f y).toNat) % 256 ∧
        (x ≠ vf → t.getV vf = f) ∧ OtherRegs [x, vf] s t ∧ t.pc = s.pc + 2 ∧ Frame [.v, .pc] s t) ∧
    (decodeWord (wordXYD 0x8 x y 0x7) = .ok (.subn x y) ∧
      let f : Byte := if (s.getV x).toNat < (s.getV y).toNat then 1 else 0
      ∃ t, exec (.subn x y) s = .next t ∧
        (t.getV x).toNat = ((regAfterFlag s f y).toNat + 256 - (regAfterFlag s f x).toNat) % 256 ∧
        (x ≠ vf → t.getV vf = f) ∧ OtherRegs [x, vf] s t ∧ t.pc = s.pc + 2 ∧ Frame [.v, .pc] s t)

/-- R119, R121, R77: VX is shifted by one, VF is the bit shifted out, whatever the Y nibble is; with X = F the flag just
written is shifted (the spec's choice D12). -/
def Obligations.ShiftResults : Prop :=
  ∀ (x y : RegNo) (s : State),
    (decodeWord (wordXYD 0x8 x y 0x6) = .ok (.shr x y) ∧
      ∃ t, exec (.shr x y) s = .next t ∧
        (x ≠ vf → (t.getV x).toNat = (s.getV x).toNat / 2 ∧ (t.getV vf).toNat = (s.getV x).toNat % 2) ∧
        (x = vf → t.getV vf = 0) ∧ OtherRegs [x, vf] s t ∧ t.pc = s.pc + 2 ∧ Frame [.v, .pc] s t) ∧
    (decodeWord (wordXYD 0x8 x y 0xE) = .ok (.shl x y) ∧
      ∃ t, exec (.shl x y) s = .next t ∧
        (x ≠ vf → (t.getV x).toNat = 2 * (s.getV x).toNat % 256 ∧ (t.getV vf).toNat = (s.getV x).toNat / 128) ∧
        (x = vf → (t.getV vf).toNat = 2 * ((s.getV vf).toNat / 128)) ∧
        OtherRegs [x, vf] s t ∧ t.pc = s.pc + 2 ∧ Frame [.v, .pc] s t)

/-- R123: the table of outcomes when VF is an operand of a flag-writing instruction (the spec's choice D12). -/
def Obligations.VfOperandTable : Prop :=
  ∀ (r : RegNo) (s : State), r ≠ vf →
    let v := (s.getV vf).toNat
    let u := (s.getV r).toNat
    (∃ t, exec (.addVxVy vf r) s = .next t ∧ (t.getV vf).toNat = (v + u) % 256) ∧
    (∃ t, exec (.addVxVy r vf) s = .next t ∧ (t.getV r).toNat = (u + v) % 256 ∧
      (t.getV vf).toNat = if u + v > 255 then 1 else 0) ∧
    (∃ t, exec (.addVxVy vf vf) s = .next t ∧ (t.getV vf).toNat = 2 * v % 256) ∧
    (∃ t, exec (.sub vf r) s = .next t ∧ (t.getV vf).toNat = ((if v > u then 1 else 0) + 256 - u) % 256) ∧
    (∃ t, exec (.sub r vf) s = .next t ∧ (t.getV r).toNat = (u + 256 - (if u > v then 1 else 0)) % 256 ∧
      (t.getV vf).toNat = if u > v then 1 else 0) ∧
    (∃ t, exec (.sub vf vf) s = .next t ∧ (t.getV vf).toNat = 0) ∧
    (∀ y, ∃ t, exec (.shr vf y) s = .next t ∧ (t.getV vf).toNat = 0) ∧
    (∃ t, exec (.subn vf r) s = .next t ∧ (t.getV vf).toNat = (u + 256 - (if u > v then 1 else 0)) % 256) ∧
    (∃ t, exec (.subn r vf) s = .next t ∧ (t.getV r).toNat = ((if v > u then 1 else 0) + 256 - u) % 256 ∧
      (t.getV vf).toNat = if v > u then 1 else 0) ∧
    (∃ t, exec (.subn vf vf) s = .next t ∧ (t.getV vf).toNat = 0) ∧
    (∀ y, ∃ t, exec (.shl vf y) s = .next t ∧ (t.getV vf).toNat = 2 * (v / 128))

/-- R122, R37 (the byte is an input of the STEP by the spec's choice D16; log 2): whatever the random byte, the result lies under
the mask; for every byte the environment may present, the result is that byte masked; and so it is when the command STEP(r) runs
the word at PC (R70). -/
def Obligations.RandomByteIsMasked : Prop :=
  ∀ (x : RegNo) (nn : Byte) (s : State),
    decodeWord (wordXNN 0xC x nn) = .ok (.rnd x nn) ∧
    (∃ t, exec (.rnd x nn) s = .next t ∧ t.getV x &&& ~~~nn = 0 ∧ OtherRegs [x] s t ∧ t.pc = s.pc + 2 ∧
      Frame [.v, .draws, .pc] s t) ∧
    (∀ r : Byte, ∃ t, exec (.rnd x nn) (s.setRnd (some r)) = .next t ∧ t.getV x = r &&& nn) ∧
    (s.err = 0 → s.pc.toNat ≤ 0xFFE →
      wordOfBytes (s.readByte s.pc.toNat) (s.readByte (s.pc.toNat + 1)) = wordXNN 0xC x nn →
      ∀ r : Byte, ∃ t, command (.step r) s = .next t ∧ t.getV x = r &&& nn ∧ OtherRegs [x] s t ∧ t.pc = s.pc + 2 ∧
        Frame [.v, .draws, .pc] s t)

/-! ### Control transfer (spec/40_flow_and_skips.md) -/

/-- R101: any NNN; to its own address it changes nothing, and to 0xFFF the fault comes at the next fetch
(the spec's choice D6; the state after the fault and its code are D3, D2). -/
def Obligations.JumpResult : Prop :=
  ∀ (nnn : BitVec 12) (s : State),
    decodeWord (wordNNN 0x1 nnn) = .ok (.jp nnn) ∧
    ∃ t, exec (.jp nnn) s = .next t ∧ t.pc.toNat = nnn.toNat ∧ Frame [.pc] s t ∧
      (nnn.toNat = s.pc.toNat → t = s) ∧ (s.err = 0 → nnn = 0xFFF → step t = .next { t with err := 4 })

/-- R103: NNN + V0 as natural numbers, not reduced; a target past memory faults at the next fetch and not here (the spec's
choice D6; the state after the fault and its code are D3, D2). -/
def Obligations.JumpOffsetResult : Prop :=
  ∀ (nnn : BitVec 12) (s : State),
    decodeWord (wordNNN 0xB nnn) = .ok (.jpV0Nnn nnn) ∧
    ∃ t, exec (.jpV0Nnn nnn) s = .next t ∧ t.pc.toNat = nnn.toNat + (s.getV 0).toNat ∧ Frame [.pc] s t ∧
      (s.err = 0 → 0xFFE < t.pc.toNat → step t = .next { t with err := 4 })

/-- R102 (the state after the fault is the spec's choice D3, its code D2). -/
def Obligations.CallResult : Prop :=
  ∀ (nnn : BitVec 12) (s : State),
    decodeWord (wordNNN 0x2 nnn) = .ok (.call nnn) ∧
    (s.sp.val < 16 → ∃ t, exec (.call nnn) s = .next t ∧ t.pc.toNat = nnn.toNat ∧ t.sp.val = s.sp.val + 1 ∧
      (∀ k : Fin 16, t.getStk k = if k.val = s.sp.val then s.pc + 2 else s.getStk k) ∧
      Frame [.stk, .sp, .pc] s t) ∧
    (s.sp.val = 16 → exec (.call nnn) s = .next { s with err := 2 })

/-- R100, R30: the entry popped stays (the state after the fault is the spec's choice D3, its code D2). -/
def Obligations.ReturnResult : Prop :=
  ∀ s : State,
    decodeWord 0x00EE = .ok .ret ∧
    (∀ k : Fin 16, s.sp.val = k.val + 1 → ∃ t, exec .ret s = .next t ∧ t.pc = s.getStk k ∧ t.sp.val = k.val ∧
      Frame [.sp, .pc] s t) ∧
    (s.sp.val = 0 → exec .ret s = .next { s with err := 3 })

/-- R102, S6: a return from the state a call leaves, with the stack as the call left it, continues after the call with the stack
pointer back. -/
def Obligations.CallThenReturn : Prop :=
  ∀ (nnn : BitVec 12) (s t u : State), s.sp.val < 16 → exec (.call nnn) s = .next t →
    (∀ k, u.getStk k = t.getStk k) → u.sp = t.sp →
    ∃ w, exec .ret u = .next w ∧ w.pc = s.pc + 2 ∧ w.sp = s.sp

/-- R104, R105; a skip taken at 0xFFC faults at the next fetch (the spec's choice D6; the state after the fault and its
code are D3, D2). -/
def Obligations.SkipImmediateResults : Prop :=
  ∀ (x : RegNo) (nn : Byte) (s : State),
    (decodeWord (wordXNN 0x3 x nn) = .ok (.seVxNn x nn) ∧
      ∃ t, exec (.seVxNn x nn) s = .next t ∧ t.pc = (if s.getV x = nn then s.pc + 4 else s.pc + 2) ∧
        Frame [.pc] s t ∧
        (s.err = 0 → s.pc = 0xFFC → s.getV x = nn → t.pc = 0x1000 ∧ step t = .next { t with err := 4 })) ∧
    (decodeWord (wordXNN 0x4 x nn) = .ok (.sneVxNn x nn) ∧
      ∃ t, exec (.sneVxNn x nn) s = .next t ∧ t.pc = (if s.getV x = nn then s.pc + 2 else s.pc + 4) ∧
        Frame [.pc] s t ∧
        (s.err = 0 → s.pc = 0xFFC → s.getV x ≠ nn → t.pc = 0x1000 ∧ step t = .next { t with err := 4 }))

/-- R106, R107 (that a nonzero low nibble is illegal is the spec's choice C2, D14). -/
def Obligations.SkipRegisterResults : Prop :=
  ∀ (x y : RegNo) (s : State),
    (decodeWord (wordXYD 0x5 x y 0) = .ok (.seVxVy x y) ∧
      (∀ d, d ≠ 0 → decodeWord (wordXYD 0x5 x y d) = .error .family5) ∧
      ∃ t, exec (.seVxVy x y) s = .next t ∧ t.pc = (if s.getV x = s.getV y then s.pc + 4 else s.pc + 2) ∧
        Frame [.pc] s t) ∧
    (decodeWord (wordXYD 0x9 x y 0) = .ok (.sneVxVy x y) ∧
      (∀ d, d ≠ 0 → decodeWord (wordXYD 0x9 x y d) = .error .family9) ∧
      ∃ t, exec (.sneVxVy x y) s = .next t ∧ t.pc = (if s.getV x = s.getV y then s.pc + 2 else s.pc + 4) ∧
        Frame [.pc] s t)

/-! ### Address register and memory (spec/42_index_and_memory.md) -/

/-- R130. -/
def Obligations.LoadIndexResult : Prop :=
  ∀ (nnn : BitVec 12) (s : State),
    decodeWord (wordNNN 0xA nnn) = .ok (.ldINnn nnn) ∧
    ∃ t, exec (.ldINnn nnn) s = .next t ∧ t.i.toNat = nnn.toNat ∧ t.pc = s.pc + 2 ∧ Frame [.i, .pc] s t

/-- R131 (both halves are the spec's choice D9; the state after the fault and its code are D3, D2). -/
def Obligations.AddIndexResult : Prop :=
  ∀ (x : RegNo) (s : State),
    decodeWord (wordXNN 0xF x 0x1E) = .ok (.addIVx x) ∧
    (s.i.toNat + (s.getV x).toNat ≤ 0xFFFF → ∃ t, exec (.addIVx x) s = .next t ∧
      t.i.toNat = s.i.toNat + (s.getV x).toNat ∧ t.pc = s.pc + 2 ∧ Frame [.i, .pc] s t) ∧
    (0xFFFF < s.i.toNat + (s.getV x).toNat → exec (.addIVx x) s = .next { s with err := 4 })

/-- R132: the bare product. -/
def Obligations.GlyphAddressResult : Prop :=
  ∀ (x : RegNo) (s : State),
    decodeWord (wordXNN 0xF x 0x29) = .ok (.ldFVx x) ∧
    ∃ t, exec (.ldFVx x) s = .next t ∧ t.i.toNat = (s.getV x).toNat * 5 ∧ t.pc = s.pc + 2 ∧ Frame [.i, .pc] s t

/-- R133, R57 (the bounds fault is the spec's choice D8; the state after it and its code are D3, D2). -/
def Obligations.StoreDecimalResult : Prop :=
  ∀ (x : RegNo) (s : State),
    decodeWord (wordXNN 0xF x 0x33) = .ok (.ldBVx x) ∧
    (s.i.toNat + 2 ≤ 0xFFF → ∃ t, exec (.ldBVx x) s = .next t ∧
      (t.readByte (s.dataAddr 0)).toNat = (s.getV x).toNat / 100 ∧
      (t.readByte (s.dataAddr 1)).toNat = (s.getV x).toNat / 10 % 10 ∧
      (t.readByte (s.dataAddr 2)).toNat = (s.getV x).toNat % 10 ∧
      OtherBytes (s.dataAddr 0) 3 s t ∧ t.pc = s.pc + 2 ∧ Frame [.mem, .pc] s t) ∧
    (0xFFF < s.i.toNat + 2 → exec (.ldBVx x) s = .next { s with err := 4 })

/-- R134, R57 (the bounds fault is the spec's choice D8; the state after it and its code are D3, D2). -/
def Obligations.StoreRegistersResult : Prop :=
  ∀ (x : RegNo) (s : State),
    decodeWord (wordXNN 0xF x 0x55) = .ok (.ldMemVx x) ∧
    (s.i.toNat + x.val ≤ 0xFFF → ∃ t, exec (.ldMemVx x) s = .next t ∧
      (∀ r : RegNo, r ≤ x → t.readByte (s.dataAddr r.val) = s.getV r) ∧
      OtherBytes (s.dataAddr 0) (x.val + 1) s t ∧ t.pc = s.pc + 2 ∧ Frame [.mem, .pc] s t) ∧
    (0xFFF < s.i.toNat + x.val → exec (.ldMemVx x) s = .next { s with err := 4 })

/-- R135, R57 (the bounds fault is the spec's choice D8; the state after it and its code are D3, D2). -/
def Obligations.LoadRegistersResult : Prop :=
  ∀ (x : RegNo) (s : State),
    decodeWord (wordXNN 0xF x 0x65) = .ok (.ldVxMem x) ∧
    (s.i.toNat + x.val ≤ 0xFFF → ∃ t, exec (.ldVxMem x) s = .next t ∧
      (∀ r : RegNo, t.getV r = if r ≤ x then s.readByte (s.dataAddr r.val) else s.getV r) ∧
      t.pc = s.pc + 2 ∧ Frame [.v, .pc] s t) ∧
    (0xFFF < s.i.toNat + x.val → exec (.ldVxMem x) s = .next { s with err := 4 })

/-- R135, S9: FX55, then FX65 from any state with the same I and memory, restores V0 to VX. -/
def Obligations.StoreThenLoadRestoresRegisters : Prop :=
  ∀ (x : RegNo) (s t u : State), s.i.toNat + x.val ≤ 0xFFF → exec (.ldMemVx x) s = .next t →
    u.i = t.i → (∀ a, u.readByte a = t.readByte a) →
    ∃ w, exec (.ldVxMem x) u = .next w ∧ ∀ r : RegNo, r ≤ x → w.getV r = s.getV r

/-- R63: a store over the next instruction's two bytes is what the next step executes. -/
def Obligations.StoredBytesAreFetched : Prop :=
  ∀ (x k : RegNo) (s t : State) (i : Instr), s.err = 0 → s.i.toNat + x.val ≤ 0xFFF → k < x →
    (s.pc + 2).toNat = s.dataAddr k.val → exec (.ldMemVx x) s = .next t →
    decodeWord (wordOfBytes (s.getV k) (s.getV (k + 1))) = .ok i → step t = exec i t

/-! ### Framebuffer (spec/43_display.md) -/

/-- R140: every pixel dark, VF and all else unchanged; so twice is the same as once. -/
def Obligations.ClearResult : Prop :=
  ∀ s : State,
    decodeWord 0x00E0 = .ok .cls ∧
    ∃ t, exec .cls s = .next t ∧ (∀ p, t.pixel p = false) ∧ t.pc = s.pc + 2 ∧ Frame [.fb, .pc] s t

/-- R141, R142: every pixel the sprite covers is toggled, no other; VF is 1 exactly when a covered pixel was lit. A coordinate
taken from VF is 0 (the spec's choice D13), N = 0 only clears VF (D25), and past 0xFFF the instruction faults (D8; the state after
it and its code are D3, D2). -/
def Obligations.DrawResult : Prop :=
  ∀ (x y : RegNo) (n : Nat) (s : State), n < 16 →
    decodeWord (wordXYD 0xD x y (BitVec.ofNat 4 n)) = .ok (.drw x y n) ∧
    (n = 0 ∨ s.i.toNat + n - 1 ≤ 0xFFF → ∃ t, exec (.drw x y n) s = .next t ∧
      (∀ p, (t.pixel p = true ↔
        (s.pixel p = true ∧ ¬ SpriteCovers s (drawCoord s x) (drawCoord s y) n p) ∨
        (s.pixel p = false ∧ SpriteCovers s (drawCoord s x) (drawCoord s y) n p))) ∧
      (t.getV vf = 0 ∨ t.getV vf = 1) ∧
      (t.getV vf = 1 ↔ ∃ p, SpriteCovers s (drawCoord s x) (drawCoord s y) n p ∧ s.pixel p = true) ∧
      OtherRegs [vf] s t ∧ t.pc = s.pc + 2 ∧ Frame [.fb, .v, .pc] s t) ∧
    (n ≠ 0 ∧ 0xFFF < s.i.toNat + n - 1 → exec (.drw x y n) s = .next { s with err := 4 })

/-- R142 (b), S4: drawing the same sprite twice at the same place restores every pixel. -/
def Obligations.DrawTwiceRestoresFrame : Prop :=
  ∀ (x y : RegNo) (n : Nat) (s t u : State), n < 16 → x ≠ vf → y ≠ vf → t.err = s.err → u.err = t.err →
    exec (.drw x y n) s = .next t → exec (.drw x y n) t = .next u → ∀ p, u.pixel p = s.pixel p

/-! ### Keys and timers (spec/44_keys_and_timers.md) -/

/-- R150, R151 (the fault above 15 is the spec's choice D10; the state after it and its code are D3, D2). -/
def Obligations.KeySkipResults : Prop :=
  ∀ (x : RegNo) (s : State),
    decodeWord (wordXNN 0xE x 0x9E) = .ok (.skp x) ∧ decodeWord (wordXNN 0xE x 0xA1) = .ok (.sknp x) ∧
    (∀ k : Fin 16, (s.getV x).toNat = k.val →
      (∃ t, exec (.skp x) s = .next t ∧ t.pc = (if s.key[k] = true then s.pc + 4 else s.pc + 2) ∧ Frame [.pc] s t) ∧
      (∃ t, exec (.sknp x) s = .next t ∧ t.pc = (if s.key[k] = true then s.pc + 2 else s.pc + 4) ∧
        Frame [.pc] s t)) ∧
    (15 < (s.getV x).toNat →
      exec (.skp x) s = .next { s with err := 4 } ∧ exec (.sknp x) s = .next { s with err := 4 })

/-- R152. -/
def Obligations.ReadDelayTimerResult : Prop :=
  ∀ (x : RegNo) (s : State),
    decodeWord (wordXNN 0xF x 0x07) = .ok (.ldVxDt x) ∧
    ∃ t, exec (.ldVxDt x) s = .next t ∧ t.getV x = s.dt ∧ OtherRegs [x] s t ∧ t.pc = s.pc + 2 ∧ Frame [.v, .pc] s t

/-- R153, R154: and SOUND follows ST at once, staying on until as many TICKs as VX have come. -/
def Obligations.SetTimerResults : Prop :=
  ∀ (x : RegNo) (s : State),
    (decodeWord (wordXNN 0xF x 0x15) = .ok (.ldDtVx x) ∧
      ∃ t, exec (.ldDtVx x) s = .next t ∧ t.dt = s.getV x ∧ t.pc = s.pc + 2 ∧ Frame [.dt, .pc] s t) ∧
    (decodeWord (wordXNN 0xF x 0x18) = .ok (.ldStVx x) ∧
      ∃ t, exec (.ldStVx x) s = .next t ∧ t.st = s.getV x ∧ (t.sound = true ↔ s.getV x ≠ 0) ∧
        (∀ n, ∃ u, run (List.replicate n .tick) t = .next u ∧ (u.sound = true ↔ n < (s.getV x).toNat)) ∧
        t.pc = s.pc + 2 ∧ Frame [.st, .pc] s t)

/-! ### Commands (spec/60_exceptions.md, spec/70_reset_and_hazards.md) -/

/-- R175: both timers count down to a floor of 0, halted or not (D5), and nothing else changes. -/
def Obligations.TickResult : Prop :=
  ∀ s : State, ∃ t, command .tick s = .next t ∧ t.dt.toNat = s.dt.toNat - 1 ∧ t.st.toNat = s.st.toNat - 1 ∧
    Frame [.dt, .st] s t

/-- R176: after `n` TICKs a timer reads `max(0, value − n)`. -/
def Obligations.TicksCountDown : Prop :=
  ∀ (n : Nat) (s : State), ∃ t, run (List.replicate n .tick) s = .next t ∧
    t.dt.toNat = s.dt.toNat - n ∧ t.st.toNat = s.st.toNat - n ∧ Frame [.dt, .st] s t

/-- R190, R39: every piece of core state at its reset value, from any state, halted or not; KEY is not changed. FONT is the
parameter `s.font` (R23). -/
def Obligations.ResetCommandResult : Prop :=
  ∀ s : State, ∃ t, command .reset s = .next t ∧
    (∀ a, a ≤ 0x4F → ∃ h : a < 80, t.readByte a = s.font[a]) ∧ (∀ a, 0x50 ≤ a → a ≤ 0xFFF → t.readByte a = 0) ∧
    (∀ r, t.getV r = 0) ∧ t.i = 0 ∧ t.pc = 0x200 ∧ (∀ k, t.getStk k = 0) ∧ t.sp = 0 ∧ t.dt = 0 ∧ t.st = 0 ∧
    (∀ p, t.pixel p = false) ∧ t.err = 0 ∧ t.key = s.key

/-- R193: a byte-for-byte copy from 0x200 on, and nothing else. -/
def Obligations.LoadCommandResult : Prop :=
  ∀ (bytes : List Byte) (s : State), bytes.length ≤ 3584 → ∃ t, command (.load bytes) s = .next t ∧
    (∀ (j : Nat) (h : j < bytes.length), t.readByte (0x200 + j) = bytes[j]) ∧
    OtherBytes 0x200 bytes.length s t ∧ Frame [.mem] s t

/-- R194 (the spec's choice D19; log 7): a longer LOAD is refused whole. -/
def Obligations.LongLoadIsRefused : Prop :=
  ∀ (bytes : List Byte) (s : State), 3584 < bytes.length → command (.load bytes) s = .refused .loadTooLong

/-- R178: one key is set or cleared, and no core state changes. -/
def Obligations.SetKeyResult : Prop :=
  ∀ (k : Fin 16) (down : Bool) (s : State), ∃ t, command (.setKey k down) s = .next t ∧
    (∀ j : Fin 16, t.key[j] = if j = k then down else s.key[j]) ∧ Frame [.key] s t

/-- R196: RESET, then LOAD(P), gives the launch state of P from any state. -/
def Obligations.ResetThenLoadBoots : Prop :=
  ∀ (P : List Byte) (s : State), P.length ≤ 3584 →
    ∃ t, run [.reset, .load P] s = .next t ∧ Booted P t ∧ t.key = s.key ∧ t.font = s.font

/-- R192: with no program loaded the first STEP after RESET halts with ERR = 1 and PC = 0x200, whatever the font (the
spec's choices D3 and, for the code, D2). -/
def Obligations.UnloadedMachineHalts : Prop :=
  ∀ (s : State) (r : Byte), ∃ t, run [.reset, .step r] s = .next t ∧ t.err = 1 ∧ t.pc = 0x200

/-- R12 (the term is the spec's choice D21): at rest, every further STEP leaves all state unchanged, and TICK and SETKEY leave the
machine at rest. -/
def Obligations.AtRestStaysAtRest : Prop :=
  ∀ s : State, AtRest s → step s = .next s ∧
    (∀ t, command .tick s = .next t → AtRest t) ∧ ∀ k down t, command (.setKey k down) s = .next t → AtRest t

/-- R179, R180, R34: the outputs. FB is 2048 bits, row by row, and SOUND is on exactly while ST is not 0; both are functions of
the state. -/
def Obligations.OutputsFollowState : Prop :=
  ∀ s : State, s.frame.length = 2048 ∧
    (∀ x y, x < 64 → y < 32 → s.frame[y * 64 + x]? = some (s.fb.get ⟨y % 32, Nat.mod_lt y (by decide)⟩ |>.getLsbD x)) ∧
    (s.sound = true ↔ s.st.toNat ≠ 0)

/-- R39, R191: the state after reset. (The key inputs and the font bytes of this state are the model's choice, log 1 and log 3,
and nothing is said of them.) -/
def Obligations.ResetStateValues : Prop :=
  (∀ a, 0x50 ≤ a → a ≤ 0xFFF → State.reset.readByte a = 0) ∧ (∀ r, State.reset.getV r = 0) ∧ State.reset.i = 0 ∧
    State.reset.pc = 0x200 ∧ (∀ k, State.reset.getStk k = 0) ∧ State.reset.sp = 0 ∧ State.reset.dt = 0 ∧
    State.reset.st = 0 ∧ (∀ p, State.reset.pixel p = false) ∧ State.reset.err = 0

/-! ### Invariants -/

/-- R29, R31, R36 and the canonical form of memory: the invariant `RunInv` is kept by every step, from every state that has
it. -/
def Obligations.StepKeepsInvariant : Prop :=
  ∀ s t : State, RunInv s → step s = .next t → RunInv t

/-- R39: the reset state has the invariant. -/
def Obligations.ResetHasInvariant : Prop := RunInv State.reset

/-- R29, R40: every command keeps the invariant, so every reachable state has it. -/
def Obligations.ReachableStatesHaveInvariant : Prop :=
  (∀ (c : Command) (s t : State), RunInv s → command c s = .next t → RunInv t) ∧ ∀ s, Reachable s → RunInv s
end

