-- ==== Sys2Proof/Laws/State.lean ====
section
/-! SUPPORT. One lemma per field per update of the state, true by unfolding, so that no later proof unfolds a record
update. -/

namespace Sys2Proof.Machine.State

variable (s : State)

@[simp] theorem setV_mem (x : RegNo) (b : Byte) : (s.setV x b).mem = s.mem := rfl
@[simp] theorem setV_v (x : RegNo) (b : Byte) : (s.setV x b).v = s.v.set x b := rfl
@[simp] theorem setV_i (x : RegNo) (b : Byte) : (s.setV x b).i = s.i := rfl
@[simp] theorem setV_pc (x : RegNo) (b : Byte) : (s.setV x b).pc = s.pc := rfl
@[simp] theorem setV_stk (x : RegNo) (b : Byte) : (s.setV x b).stk = s.stk := rfl
@[simp] theorem setV_sp (x : RegNo) (b : Byte) : (s.setV x b).sp = s.sp := rfl
@[simp] theorem setV_dt (x : RegNo) (b : Byte) : (s.setV x b).dt = s.dt := rfl
@[simp] theorem setV_st (x : RegNo) (b : Byte) : (s.setV x b).st = s.st := rfl
@[simp] theorem setV_fb (x : RegNo) (b : Byte) : (s.setV x b).fb = s.fb := rfl
@[simp] theorem setV_err (x : RegNo) (b : Byte) : (s.setV x b).err = s.err := rfl
@[simp] theorem setV_key (x : RegNo) (b : Byte) : (s.setV x b).key = s.key := rfl
@[simp] theorem setV_rnd (x : RegNo) (b : Byte) : (s.setV x b).rnd = s.rnd := rfl
@[simp] theorem setV_font (x : RegNo) (b : Byte) : (s.setV x b).font = s.font := rfl
@[simp] theorem setV_draws (x : RegNo) (b : Byte) : (s.setV x b).draws = s.draws := rfl

@[simp] theorem setFlag_mem (f : Byte) : (s.setFlag f).mem = s.mem := rfl
@[simp] theorem setFlag_v (f : Byte) : (s.setFlag f).v = s.v.set vf f := rfl
@[simp] theorem setFlag_i (f : Byte) : (s.setFlag f).i = s.i := rfl
@[simp] theorem setFlag_pc (f : Byte) : (s.setFlag f).pc = s.pc := rfl
@[simp] theorem setFlag_stk (f : Byte) : (s.setFlag f).stk = s.stk := rfl
@[simp] theorem setFlag_sp (f : Byte) : (s.setFlag f).sp = s.sp := rfl
@[simp] theorem setFlag_dt (f : Byte) : (s.setFlag f).dt = s.dt := rfl
@[simp] theorem setFlag_st (f : Byte) : (s.setFlag f).st = s.st := rfl
@[simp] theorem setFlag_fb (f : Byte) : (s.setFlag f).fb = s.fb := rfl
@[simp] theorem setFlag_err (f : Byte) : (s.setFlag f).err = s.err := rfl
@[simp] theorem setFlag_key (f : Byte) : (s.setFlag f).key = s.key := rfl
@[simp] theorem setFlag_rnd (f : Byte) : (s.setFlag f).rnd = s.rnd := rfl
@[simp] theorem setFlag_font (f : Byte) : (s.setFlag f).font = s.font := rfl
@[simp] theorem setFlag_draws (f : Byte) : (s.setFlag f).draws = s.draws := rfl

@[simp] theorem loadRegs_mem (bs : List Byte) : (s.loadRegs bs).mem = s.mem := rfl
@[simp] theorem loadRegs_v (bs : List Byte) : (s.loadRegs bs).v = loadRun s.v 0 bs := rfl
@[simp] theorem loadRegs_i (bs : List Byte) : (s.loadRegs bs).i = s.i := rfl
@[simp] theorem loadRegs_pc (bs : List Byte) : (s.loadRegs bs).pc = s.pc := rfl
@[simp] theorem loadRegs_stk (bs : List Byte) : (s.loadRegs bs).stk = s.stk := rfl
@[simp] theorem loadRegs_sp (bs : List Byte) : (s.loadRegs bs).sp = s.sp := rfl
@[simp] theorem loadRegs_dt (bs : List Byte) : (s.loadRegs bs).dt = s.dt := rfl
@[simp] theorem loadRegs_st (bs : List Byte) : (s.loadRegs bs).st = s.st := rfl
@[simp] theorem loadRegs_fb (bs : List Byte) : (s.loadRegs bs).fb = s.fb := rfl
@[simp] theorem loadRegs_err (bs : List Byte) : (s.loadRegs bs).err = s.err := rfl
@[simp] theorem loadRegs_key (bs : List Byte) : (s.loadRegs bs).key = s.key := rfl
@[simp] theorem loadRegs_rnd (bs : List Byte) : (s.loadRegs bs).rnd = s.rnd := rfl
@[simp] theorem loadRegs_font (bs : List Byte) : (s.loadRegs bs).font = s.font := rfl
@[simp] theorem loadRegs_draws (bs : List Byte) : (s.loadRegs bs).draws = s.draws := rfl

@[simp] theorem setSp_mem (n : Fin 17) : (s.setSp n).mem = s.mem := rfl
@[simp] theorem setSp_v (n : Fin 17) : (s.setSp n).v = s.v := rfl
@[simp] theorem setSp_i (n : Fin 17) : (s.setSp n).i = s.i := rfl
@[simp] theorem setSp_pc (n : Fin 17) : (s.setSp n).pc = s.pc := rfl
@[simp] theorem setSp_stk (n : Fin 17) : (s.setSp n).stk = s.stk := rfl
@[simp] theorem setSp_sp (n : Fin 17) : (s.setSp n).sp = n := rfl
@[simp] theorem setSp_dt (n : Fin 17) : (s.setSp n).dt = s.dt := rfl
@[simp] theorem setSp_st (n : Fin 17) : (s.setSp n).st = s.st := rfl
@[simp] theorem setSp_fb (n : Fin 17) : (s.setSp n).fb = s.fb := rfl
@[simp] theorem setSp_err (n : Fin 17) : (s.setSp n).err = s.err := rfl
@[simp] theorem setSp_key (n : Fin 17) : (s.setSp n).key = s.key := rfl
@[simp] theorem setSp_rnd (n : Fin 17) : (s.setSp n).rnd = s.rnd := rfl
@[simp] theorem setSp_font (n : Fin 17) : (s.setSp n).font = s.font := rfl
@[simp] theorem setSp_draws (n : Fin 17) : (s.setSp n).draws = s.draws := rfl

@[simp] theorem setStk_mem (k : Fin 16) (w : Word) : (s.setStk k w).mem = s.mem := rfl
@[simp] theorem setStk_v (k : Fin 16) (w : Word) : (s.setStk k w).v = s.v := rfl
@[simp] theorem setStk_i (k : Fin 16) (w : Word) : (s.setStk k w).i = s.i := rfl
@[simp] theorem setStk_pc (k : Fin 16) (w : Word) : (s.setStk k w).pc = s.pc := rfl
@[simp] theorem setStk_stk (k : Fin 16) (w : Word) : (s.setStk k w).stk = s.stk.set k w := rfl
@[simp] theorem setStk_sp (k : Fin 16) (w : Word) : (s.setStk k w).sp = s.sp := rfl
@[simp] theorem setStk_dt (k : Fin 16) (w : Word) : (s.setStk k w).dt = s.dt := rfl
@[simp] theorem setStk_st (k : Fin 16) (w : Word) : (s.setStk k w).st = s.st := rfl
@[simp] theorem setStk_fb (k : Fin 16) (w : Word) : (s.setStk k w).fb = s.fb := rfl
@[simp] theorem setStk_err (k : Fin 16) (w : Word) : (s.setStk k w).err = s.err := rfl
@[simp] theorem setStk_key (k : Fin 16) (w : Word) : (s.setStk k w).key = s.key := rfl
@[simp] theorem setStk_rnd (k : Fin 16) (w : Word) : (s.setStk k w).rnd = s.rnd := rfl
@[simp] theorem setStk_font (k : Fin 16) (w : Word) : (s.setStk k w).font = s.font := rfl
@[simp] theorem setStk_draws (k : Fin 16) (w : Word) : (s.setStk k w).draws = s.draws := rfl

@[simp] theorem setI_mem (w : Word) : (s.setI w).mem = s.mem := rfl
@[simp] theorem setI_v (w : Word) : (s.setI w).v = s.v := rfl
@[simp] theorem setI_i (w : Word) : (s.setI w).i = w := rfl
@[simp] theorem setI_pc (w : Word) : (s.setI w).pc = s.pc := rfl
@[simp] theorem setI_stk (w : Word) : (s.setI w).stk = s.stk := rfl
@[simp] theorem setI_sp (w : Word) : (s.setI w).sp = s.sp := rfl
@[simp] theorem setI_dt (w : Word) : (s.setI w).dt = s.dt := rfl
@[simp] theorem setI_st (w : Word) : (s.setI w).st = s.st := rfl
@[simp] theorem setI_fb (w : Word) : (s.setI w).fb = s.fb := rfl
@[simp] theorem setI_err (w : Word) : (s.setI w).err = s.err := rfl
@[simp] theorem setI_key (w : Word) : (s.setI w).key = s.key := rfl
@[simp] theorem setI_rnd (w : Word) : (s.setI w).rnd = s.rnd := rfl
@[simp] theorem setI_font (w : Word) : (s.setI w).font = s.font := rfl
@[simp] theorem setI_draws (w : Word) : (s.setI w).draws = s.draws := rfl

@[simp] theorem setPc_mem (w : Word) : (s.setPc w).mem = s.mem := rfl
@[simp] theorem setPc_v (w : Word) : (s.setPc w).v = s.v := rfl
@[simp] theorem setPc_i (w : Word) : (s.setPc w).i = s.i := rfl
@[simp] theorem setPc_pc (w : Word) : (s.setPc w).pc = w := rfl
@[simp] theorem setPc_stk (w : Word) : (s.setPc w).stk = s.stk := rfl
@[simp] theorem setPc_sp (w : Word) : (s.setPc w).sp = s.sp := rfl
@[simp] theorem setPc_dt (w : Word) : (s.setPc w).dt = s.dt := rfl
@[simp] theorem setPc_st (w : Word) : (s.setPc w).st = s.st := rfl
@[simp] theorem setPc_fb (w : Word) : (s.setPc w).fb = s.fb := rfl
@[simp] theorem setPc_err (w : Word) : (s.setPc w).err = s.err := rfl
@[simp] theorem setPc_key (w : Word) : (s.setPc w).key = s.key := rfl
@[simp] theorem setPc_rnd (w : Word) : (s.setPc w).rnd = s.rnd := rfl
@[simp] theorem setPc_font (w : Word) : (s.setPc w).font = s.font := rfl
@[simp] theorem setPc_draws (w : Word) : (s.setPc w).draws = s.draws := rfl

@[simp] theorem advance_mem : (s.advance).mem = s.mem := rfl
@[simp] theorem advance_v : (s.advance).v = s.v := rfl
@[simp] theorem advance_i : (s.advance).i = s.i := rfl
@[simp] theorem advance_pc : (s.advance).pc = s.pc + 2 := rfl
@[simp] theorem advance_stk : (s.advance).stk = s.stk := rfl
@[simp] theorem advance_sp : (s.advance).sp = s.sp := rfl
@[simp] theorem advance_dt : (s.advance).dt = s.dt := rfl
@[simp] theorem advance_st : (s.advance).st = s.st := rfl
@[simp] theorem advance_fb : (s.advance).fb = s.fb := rfl
@[simp] theorem advance_err : (s.advance).err = s.err := rfl
@[simp] theorem advance_key : (s.advance).key = s.key := rfl
@[simp] theorem advance_rnd : (s.advance).rnd = s.rnd := rfl
@[simp] theorem advance_font : (s.advance).font = s.font := rfl
@[simp] theorem advance_draws : (s.advance).draws = s.draws := rfl

@[simp] theorem skip_mem : (s.skip).mem = s.mem := rfl
@[simp] theorem skip_v : (s.skip).v = s.v := rfl
@[simp] theorem skip_i : (s.skip).i = s.i := rfl
@[simp] theorem skip_pc : (s.skip).pc = s.pc + 2 := rfl
@[simp] theorem skip_stk : (s.skip).stk = s.stk := rfl
@[simp] theorem skip_sp : (s.skip).sp = s.sp := rfl
@[simp] theorem skip_dt : (s.skip).dt = s.dt := rfl
@[simp] theorem skip_st : (s.skip).st = s.st := rfl
@[simp] theorem skip_fb : (s.skip).fb = s.fb := rfl
@[simp] theorem skip_err : (s.skip).err = s.err := rfl
@[simp] theorem skip_key : (s.skip).key = s.key := rfl
@[simp] theorem skip_rnd : (s.skip).rnd = s.rnd := rfl
@[simp] theorem skip_font : (s.skip).font = s.font := rfl
@[simp] theorem skip_draws : (s.skip).draws = s.draws := rfl

@[simp] theorem setDt_mem (b : Byte) : (s.setDt b).mem = s.mem := rfl
@[simp] theorem setDt_v (b : Byte) : (s.setDt b).v = s.v := rfl
@[simp] theorem setDt_i (b : Byte) : (s.setDt b).i = s.i := rfl
@[simp] theorem setDt_pc (b : Byte) : (s.setDt b).pc = s.pc := rfl
@[simp] theorem setDt_stk (b : Byte) : (s.setDt b).stk = s.stk := rfl
@[simp] theorem setDt_sp (b : Byte) : (s.setDt b).sp = s.sp := rfl
@[simp] theorem setDt_dt (b : Byte) : (s.setDt b).dt = b := rfl
@[simp] theorem setDt_st (b : Byte) : (s.setDt b).st = s.st := rfl
@[simp] theorem setDt_fb (b : Byte) : (s.setDt b).fb = s.fb := rfl
@[simp] theorem setDt_err (b : Byte) : (s.setDt b).err = s.err := rfl
@[simp] theorem setDt_key (b : Byte) : (s.setDt b).key = s.key := rfl
@[simp] theorem setDt_rnd (b : Byte) : (s.setDt b).rnd = s.rnd := rfl
@[simp] theorem setDt_font (b : Byte) : (s.setDt b).font = s.font := rfl
@[simp] theorem setDt_draws (b : Byte) : (s.setDt b).draws = s.draws := rfl

@[simp] theorem setSt_mem (b : Byte) : (s.setSt b).mem = s.mem := rfl
@[simp] theorem setSt_v (b : Byte) : (s.setSt b).v = s.v := rfl
@[simp] theorem setSt_i (b : Byte) : (s.setSt b).i = s.i := rfl
@[simp] theorem setSt_pc (b : Byte) : (s.setSt b).pc = s.pc := rfl
@[simp] theorem setSt_stk (b : Byte) : (s.setSt b).stk = s.stk := rfl
@[simp] theorem setSt_sp (b : Byte) : (s.setSt b).sp = s.sp := rfl
@[simp] theorem setSt_dt (b : Byte) : (s.setSt b).dt = s.dt := rfl
@[simp] theorem setSt_st (b : Byte) : (s.setSt b).st = b := rfl
@[simp] theorem setSt_fb (b : Byte) : (s.setSt b).fb = s.fb := rfl
@[simp] theorem setSt_err (b : Byte) : (s.setSt b).err = s.err := rfl
@[simp] theorem setSt_key (b : Byte) : (s.setSt b).key = s.key := rfl
@[simp] theorem setSt_rnd (b : Byte) : (s.setSt b).rnd = s.rnd := rfl
@[simp] theorem setSt_font (b : Byte) : (s.setSt b).font = s.font := rfl
@[simp] theorem setSt_draws (b : Byte) : (s.setSt b).draws = s.draws := rfl

@[simp] theorem setErr_mem (e : BitVec 3) : (s.setErr e).mem = s.mem := rfl
@[simp] theorem setErr_v (e : BitVec 3) : (s.setErr e).v = s.v := rfl
@[simp] theorem setErr_i (e : BitVec 3) : (s.setErr e).i = s.i := rfl
@[simp] theorem setErr_pc (e : BitVec 3) : (s.setErr e).pc = s.pc := rfl
@[simp] theorem setErr_stk (e : BitVec 3) : (s.setErr e).stk = s.stk := rfl
@[simp] theorem setErr_sp (e : BitVec 3) : (s.setErr e).sp = s.sp := rfl
@[simp] theorem setErr_dt (e : BitVec 3) : (s.setErr e).dt = s.dt := rfl
@[simp] theorem setErr_st (e : BitVec 3) : (s.setErr e).st = s.st := rfl
@[simp] theorem setErr_fb (e : BitVec 3) : (s.setErr e).fb = s.fb := rfl
@[simp] theorem setErr_err (e : BitVec 3) : (s.setErr e).err = e := rfl
@[simp] theorem setErr_key (e : BitVec 3) : (s.setErr e).key = s.key := rfl
@[simp] theorem setErr_rnd (e : BitVec 3) : (s.setErr e).rnd = s.rnd := rfl
@[simp] theorem setErr_font (e : BitVec 3) : (s.setErr e).font = s.font := rfl
@[simp] theorem setErr_draws (e : BitVec 3) : (s.setErr e).draws = s.draws := rfl

@[simp] theorem setRnd_mem (r : Option Byte) : (s.setRnd r).mem = s.mem := rfl
@[simp] theorem setRnd_v (r : Option Byte) : (s.setRnd r).v = s.v := rfl
@[simp] theorem setRnd_i (r : Option Byte) : (s.setRnd r).i = s.i := rfl
@[simp] theorem setRnd_pc (r : Option Byte) : (s.setRnd r).pc = s.pc := rfl
@[simp] theorem setRnd_stk (r : Option Byte) : (s.setRnd r).stk = s.stk := rfl
@[simp] theorem setRnd_sp (r : Option Byte) : (s.setRnd r).sp = s.sp := rfl
@[simp] theorem setRnd_dt (r : Option Byte) : (s.setRnd r).dt = s.dt := rfl
@[simp] theorem setRnd_st (r : Option Byte) : (s.setRnd r).st = s.st := rfl
@[simp] theorem setRnd_fb (r : Option Byte) : (s.setRnd r).fb = s.fb := rfl
@[simp] theorem setRnd_err (r : Option Byte) : (s.setRnd r).err = s.err := rfl
@[simp] theorem setRnd_key (r : Option Byte) : (s.setRnd r).key = s.key := rfl
@[simp] theorem setRnd_rnd (r : Option Byte) : (s.setRnd r).rnd = r := rfl
@[simp] theorem setRnd_font (r : Option Byte) : (s.setRnd r).font = s.font := rfl
@[simp] theorem setRnd_draws (r : Option Byte) : (s.setRnd r).draws = s.draws := rfl

@[simp] theorem countDraw_mem : (s.countDraw).mem = s.mem := rfl
@[simp] theorem countDraw_v : (s.countDraw).v = s.v := rfl
@[simp] theorem countDraw_i : (s.countDraw).i = s.i := rfl
@[simp] theorem countDraw_pc : (s.countDraw).pc = s.pc := rfl
@[simp] theorem countDraw_stk : (s.countDraw).stk = s.stk := rfl
@[simp] theorem countDraw_sp : (s.countDraw).sp = s.sp := rfl
@[simp] theorem countDraw_dt : (s.countDraw).dt = s.dt := rfl
@[simp] theorem countDraw_st : (s.countDraw).st = s.st := rfl
@[simp] theorem countDraw_fb : (s.countDraw).fb = s.fb := rfl
@[simp] theorem countDraw_err : (s.countDraw).err = s.err := rfl
@[simp] theorem countDraw_key : (s.countDraw).key = s.key := rfl
@[simp] theorem countDraw_rnd : (s.countDraw).rnd = s.rnd := rfl
@[simp] theorem countDraw_font : (s.countDraw).font = s.font := rfl
@[simp] theorem countDraw_draws : (s.countDraw).draws = s.draws + 1 := rfl

@[simp] theorem clearFb_mem : (s.clearFb).mem = s.mem := rfl
@[simp] theorem clearFb_v : (s.clearFb).v = s.v := rfl
@[simp] theorem clearFb_i : (s.clearFb).i = s.i := rfl
@[simp] theorem clearFb_pc : (s.clearFb).pc = s.pc := rfl
@[simp] theorem clearFb_stk : (s.clearFb).stk = s.stk := rfl
@[simp] theorem clearFb_sp : (s.clearFb).sp = s.sp := rfl
@[simp] theorem clearFb_dt : (s.clearFb).dt = s.dt := rfl
@[simp] theorem clearFb_st : (s.clearFb).st = s.st := rfl
@[simp] theorem clearFb_fb : (s.clearFb).fb = Vector.replicate Config.fbH 0 := rfl
@[simp] theorem clearFb_err : (s.clearFb).err = s.err := rfl
@[simp] theorem clearFb_key : (s.clearFb).key = s.key := rfl
@[simp] theorem clearFb_rnd : (s.clearFb).rnd = s.rnd := rfl
@[simp] theorem clearFb_font : (s.clearFb).font = s.font := rfl
@[simp] theorem clearFb_draws : (s.clearFb).draws = s.draws := rfl

@[simp] theorem writeBytes_mem (a : Nat) (bs : List Byte) : (s.writeBytes a bs).mem = Memory.writeBytes s.font s.mem a bs := rfl
@[simp] theorem writeBytes_v (a : Nat) (bs : List Byte) : (s.writeBytes a bs).v = s.v := rfl
@[simp] theorem writeBytes_i (a : Nat) (bs : List Byte) : (s.writeBytes a bs).i = s.i := rfl
@[simp] theorem writeBytes_pc (a : Nat) (bs : List Byte) : (s.writeBytes a bs).pc = s.pc := rfl
@[simp] theorem writeBytes_stk (a : Nat) (bs : List Byte) : (s.writeBytes a bs).stk = s.stk := rfl
@[simp] theorem writeBytes_sp (a : Nat) (bs : List Byte) : (s.writeBytes a bs).sp = s.sp := rfl
@[simp] theorem writeBytes_dt (a : Nat) (bs : List Byte) : (s.writeBytes a bs).dt = s.dt := rfl
@[simp] theorem writeBytes_st (a : Nat) (bs : List Byte) : (s.writeBytes a bs).st = s.st := rfl
@[simp] theorem writeBytes_fb (a : Nat) (bs : List Byte) : (s.writeBytes a bs).fb = s.fb := rfl
@[simp] theorem writeBytes_err (a : Nat) (bs : List Byte) : (s.writeBytes a bs).err = s.err := rfl
@[simp] theorem writeBytes_key (a : Nat) (bs : List Byte) : (s.writeBytes a bs).key = s.key := rfl
@[simp] theorem writeBytes_rnd (a : Nat) (bs : List Byte) : (s.writeBytes a bs).rnd = s.rnd := rfl
@[simp] theorem writeBytes_font (a : Nat) (bs : List Byte) : (s.writeBytes a bs).font = s.font := rfl
@[simp] theorem writeBytes_draws (a : Nat) (bs : List Byte) : (s.writeBytes a bs).draws = s.draws := rfl

@[simp] theorem skipIf_mem (c : Bool) : (s.skipIf c).mem = s.mem := by unfold State.skipIf; split <;> rfl
@[simp] theorem skipIf_v (c : Bool) : (s.skipIf c).v = s.v := by unfold State.skipIf; split <;> rfl
@[simp] theorem skipIf_i (c : Bool) : (s.skipIf c).i = s.i := by unfold State.skipIf; split <;> rfl
@[simp] theorem skipIf_pc (c : Bool) : (s.skipIf c).pc = if c then s.pc + 2 else s.pc := by unfold State.skipIf; split <;> rfl
@[simp] theorem skipIf_stk (c : Bool) : (s.skipIf c).stk = s.stk := by unfold State.skipIf; split <;> rfl
@[simp] theorem skipIf_sp (c : Bool) : (s.skipIf c).sp = s.sp := by unfold State.skipIf; split <;> rfl
@[simp] theorem skipIf_dt (c : Bool) : (s.skipIf c).dt = s.dt := by unfold State.skipIf; split <;> rfl
@[simp] theorem skipIf_st (c : Bool) : (s.skipIf c).st = s.st := by unfold State.skipIf; split <;> rfl
@[simp] theorem skipIf_fb (c : Bool) : (s.skipIf c).fb = s.fb := by unfold State.skipIf; split <;> rfl
@[simp] theorem skipIf_err (c : Bool) : (s.skipIf c).err = s.err := by unfold State.skipIf; split <;> rfl
@[simp] theorem skipIf_key (c : Bool) : (s.skipIf c).key = s.key := by unfold State.skipIf; split <;> rfl
@[simp] theorem skipIf_rnd (c : Bool) : (s.skipIf c).rnd = s.rnd := by unfold State.skipIf; split <;> rfl
@[simp] theorem skipIf_font (c : Bool) : (s.skipIf c).font = s.font := by unfold State.skipIf; split <;> rfl
@[simp] theorem skipIf_draws (c : Bool) : (s.skipIf c).draws = s.draws := by unfold State.skipIf; split <;> rfl

@[simp] theorem togglePixel_mem (p : Nat) : (s.togglePixel p).mem = s.mem := by unfold State.togglePixel; split <;> rfl
@[simp] theorem togglePixel_v (p : Nat) : (s.togglePixel p).v = s.v := by unfold State.togglePixel; split <;> rfl
@[simp] theorem togglePixel_i (p : Nat) : (s.togglePixel p).i = s.i := by unfold State.togglePixel; split <;> rfl
@[simp] theorem togglePixel_pc (p : Nat) : (s.togglePixel p).pc = s.pc := by unfold State.togglePixel; split <;> rfl
@[simp] theorem togglePixel_stk (p : Nat) : (s.togglePixel p).stk = s.stk := by unfold State.togglePixel; split <;> rfl
@[simp] theorem togglePixel_sp (p : Nat) : (s.togglePixel p).sp = s.sp := by unfold State.togglePixel; split <;> rfl
@[simp] theorem togglePixel_dt (p : Nat) : (s.togglePixel p).dt = s.dt := by unfold State.togglePixel; split <;> rfl
@[simp] theorem togglePixel_st (p : Nat) : (s.togglePixel p).st = s.st := by unfold State.togglePixel; split <;> rfl
@[simp] theorem togglePixel_err (p : Nat) : (s.togglePixel p).err = s.err := by unfold State.togglePixel; split <;> rfl
@[simp] theorem togglePixel_key (p : Nat) : (s.togglePixel p).key = s.key := by unfold State.togglePixel; split <;> rfl
@[simp] theorem togglePixel_rnd (p : Nat) : (s.togglePixel p).rnd = s.rnd := by unfold State.togglePixel; split <;> rfl
@[simp] theorem togglePixel_font (p : Nat) : (s.togglePixel p).font = s.font := by unfold State.togglePixel; split <;> rfl
@[simp] theorem togglePixel_draws (p : Nat) : (s.togglePixel p).draws = s.draws := by unfold State.togglePixel; split <;> rfl

@[simp] theorem drawPixel_mem (p : Nat) : (s.drawPixel p).mem = s.mem := by unfold State.drawPixel; split <;> simp
@[simp] theorem drawPixel_i (p : Nat) : (s.drawPixel p).i = s.i := by unfold State.drawPixel; split <;> simp
@[simp] theorem drawPixel_pc (p : Nat) : (s.drawPixel p).pc = s.pc := by unfold State.drawPixel; split <;> simp
@[simp] theorem drawPixel_stk (p : Nat) : (s.drawPixel p).stk = s.stk := by unfold State.drawPixel; split <;> simp
@[simp] theorem drawPixel_sp (p : Nat) : (s.drawPixel p).sp = s.sp := by unfold State.drawPixel; split <;> simp
@[simp] theorem drawPixel_dt (p : Nat) : (s.drawPixel p).dt = s.dt := by unfold State.drawPixel; split <;> simp
@[simp] theorem drawPixel_st (p : Nat) : (s.drawPixel p).st = s.st := by unfold State.drawPixel; split <;> simp
@[simp] theorem drawPixel_err (p : Nat) : (s.drawPixel p).err = s.err := by unfold State.drawPixel; split <;> simp
@[simp] theorem drawPixel_key (p : Nat) : (s.drawPixel p).key = s.key := by unfold State.drawPixel; split <;> simp
@[simp] theorem drawPixel_rnd (p : Nat) : (s.drawPixel p).rnd = s.rnd := by unfold State.drawPixel; split <;> simp
@[simp] theorem drawPixel_font (p : Nat) : (s.drawPixel p).font = s.font := by unfold State.drawPixel; split <;> simp
@[simp] theorem drawPixel_draws (p : Nat) : (s.drawPixel p).draws = s.draws := by unfold State.drawPixel; split <;> simp

/-! ### The accessors read through the updates that do not touch what they read -/

@[simp] theorem readByte_setV (x : RegNo) (b : Byte) (a' : Nat) : (s.setV x b).readByte a' = s.readByte a' := rfl
@[simp] theorem pixel_setV (x : RegNo) (b : Byte) (p' : Nat) : (s.setV x b).pixel p' = s.pixel p' := rfl
@[simp] theorem getStk_setV (x : RegNo) (b : Byte) (k' : Fin 16) : (s.setV x b).getStk k' = s.getStk k' := rfl
@[simp] theorem dataAddr_setV (x : RegNo) (b : Byte) (k' : Nat) : (s.setV x b).dataAddr k' = s.dataAddr k' := rfl
@[simp] theorem keyDown_setV (x : RegNo) (b : Byte) (k' : Byte) : (s.setV x b).keyDown k' = s.keyDown k' := rfl

@[simp] theorem readByte_setFlag (f : Byte) (a' : Nat) : (s.setFlag f).readByte a' = s.readByte a' := rfl
@[simp] theorem pixel_setFlag (f : Byte) (p' : Nat) : (s.setFlag f).pixel p' = s.pixel p' := rfl
@[simp] theorem getStk_setFlag (f : Byte) (k' : Fin 16) : (s.setFlag f).getStk k' = s.getStk k' := rfl
@[simp] theorem dataAddr_setFlag (f : Byte) (k' : Nat) : (s.setFlag f).dataAddr k' = s.dataAddr k' := rfl
@[simp] theorem keyDown_setFlag (f : Byte) (k' : Byte) : (s.setFlag f).keyDown k' = s.keyDown k' := rfl

@[simp] theorem readByte_loadRegs (bs : List Byte) (a' : Nat) : (s.loadRegs bs).readByte a' = s.readByte a' := rfl
@[simp] theorem pixel_loadRegs (bs : List Byte) (p' : Nat) : (s.loadRegs bs).pixel p' = s.pixel p' := rfl
@[simp] theorem getStk_loadRegs (bs : List Byte) (k' : Fin 16) : (s.loadRegs bs).getStk k' = s.getStk k' := rfl
@[simp] theorem dataAddr_loadRegs (bs : List Byte) (k' : Nat) : (s.loadRegs bs).dataAddr k' = s.dataAddr k' := rfl
@[simp] theorem keyDown_loadRegs (bs : List Byte) (k' : Byte) : (s.loadRegs bs).keyDown k' = s.keyDown k' := rfl

@[simp] theorem getV_setSp (n : Fin 17) (x' : RegNo) : (s.setSp n).getV x' = s.getV x' := rfl
@[simp] theorem readByte_setSp (n : Fin 17) (a' : Nat) : (s.setSp n).readByte a' = s.readByte a' := rfl
@[simp] theorem pixel_setSp (n : Fin 17) (p' : Nat) : (s.setSp n).pixel p' = s.pixel p' := rfl
@[simp] theorem getStk_setSp (n : Fin 17) (k' : Fin 16) : (s.setSp n).getStk k' = s.getStk k' := rfl
@[simp] theorem dataAddr_setSp (n : Fin 17) (k' : Nat) : (s.setSp n).dataAddr k' = s.dataAddr k' := rfl
@[simp] theorem keyDown_setSp (n : Fin 17) (k' : Byte) : (s.setSp n).keyDown k' = s.keyDown k' := rfl

@[simp] theorem getV_setStk (k : Fin 16) (w : Word) (x' : RegNo) : (s.setStk k w).getV x' = s.getV x' := rfl
@[simp] theorem readByte_setStk (k : Fin 16) (w : Word) (a' : Nat) : (s.setStk k w).readByte a' = s.readByte a' := rfl
@[simp] theorem pixel_setStk (k : Fin 16) (w : Word) (p' : Nat) : (s.setStk k w).pixel p' = s.pixel p' := rfl
@[simp] theorem dataAddr_setStk (k : Fin 16) (w : Word) (k' : Nat) : (s.setStk k w).dataAddr k' = s.dataAddr k' := rfl
@[simp] theorem keyDown_setStk (k : Fin 16) (w : Word) (k' : Byte) : (s.setStk k w).keyDown k' = s.keyDown k' := rfl

@[simp] theorem getV_setI (w : Word) (x' : RegNo) : (s.setI w).getV x' = s.getV x' := rfl
@[simp] theorem readByte_setI (w : Word) (a' : Nat) : (s.setI w).readByte a' = s.readByte a' := rfl
@[simp] theorem pixel_setI (w : Word) (p' : Nat) : (s.setI w).pixel p' = s.pixel p' := rfl
@[simp] theorem getStk_setI (w : Word) (k' : Fin 16) : (s.setI w).getStk k' = s.getStk k' := rfl
@[simp] theorem keyDown_setI (w : Word) (k' : Byte) : (s.setI w).keyDown k' = s.keyDown k' := rfl

@[simp] theorem getV_setPc (w : Word) (x' : RegNo) : (s.setPc w).getV x' = s.getV x' := rfl
@[simp] theorem readByte_setPc (w : Word) (a' : Nat) : (s.setPc w).readByte a' = s.readByte a' := rfl
@[simp] theorem pixel_setPc (w : Word) (p' : Nat) : (s.setPc w).pixel p' = s.pixel p' := rfl
@[simp] theorem getStk_setPc (w : Word) (k' : Fin 16) : (s.setPc w).getStk k' = s.getStk k' := rfl
@[simp] theorem dataAddr_setPc (w : Word) (k' : Nat) : (s.setPc w).dataAddr k' = s.dataAddr k' := rfl
@[simp] theorem keyDown_setPc (w : Word) (k' : Byte) : (s.setPc w).keyDown k' = s.keyDown k' := rfl

@[simp] theorem getV_advance (x' : RegNo) : (s.advance).getV x' = s.getV x' := rfl
@[simp] theorem readByte_advance (a' : Nat) : (s.advance).readByte a' = s.readByte a' := rfl
@[simp] theorem pixel_advance (p' : Nat) : (s.advance).pixel p' = s.pixel p' := rfl
@[simp] theorem getStk_advance (k' : Fin 16) : (s.advance).getStk k' = s.getStk k' := rfl
@[simp] theorem dataAddr_advance (k' : Nat) : (s.advance).dataAddr k' = s.dataAddr k' := rfl
@[simp] theorem keyDown_advance (k' : Byte) : (s.advance).keyDown k' = s.keyDown k' := rfl

@[simp] theorem getV_skip (x' : RegNo) : (s.skip).getV x' = s.getV x' := rfl
@[simp] theorem readByte_skip (a' : Nat) : (s.skip).readByte a' = s.readByte a' := rfl
@[simp] theorem pixel_skip (p' : Nat) : (s.skip).pixel p' = s.pixel p' := rfl
@[simp] theorem getStk_skip (k' : Fin 16) : (s.skip).getStk k' = s.getStk k' := rfl
@[simp] theorem dataAddr_skip (k' : Nat) : (s.skip).dataAddr k' = s.dataAddr k' := rfl
@[simp] theorem keyDown_skip (k' : Byte) : (s.skip).keyDown k' = s.keyDown k' := rfl

@[simp] theorem getV_setDt (b : Byte) (x' : RegNo) : (s.setDt b).getV x' = s.getV x' := rfl
@[simp] theorem readByte_setDt (b : Byte) (a' : Nat) : (s.setDt b).readByte a' = s.readByte a' := rfl
@[simp] theorem pixel_setDt (b : Byte) (p' : Nat) : (s.setDt b).pixel p' = s.pixel p' := rfl
@[simp] theorem getStk_setDt (b : Byte) (k' : Fin 16) : (s.setDt b).getStk k' = s.getStk k' := rfl
@[simp] theorem dataAddr_setDt (b : Byte) (k' : Nat) : (s.setDt b).dataAddr k' = s.dataAddr k' := rfl
@[simp] theorem keyDown_setDt (b : Byte) (k' : Byte) : (s.setDt b).keyDown k' = s.keyDown k' := rfl

@[simp] theorem getV_setSt (b : Byte) (x' : RegNo) : (s.setSt b).getV x' = s.getV x' := rfl
@[simp] theorem readByte_setSt (b : Byte) (a' : Nat) : (s.setSt b).readByte a' = s.readByte a' := rfl
@[simp] theorem pixel_setSt (b : Byte) (p' : Nat) : (s.setSt b).pixel p' = s.pixel p' := rfl
@[simp] theorem getStk_setSt (b : Byte) (k' : Fin 16) : (s.setSt b).getStk k' = s.getStk k' := rfl
@[simp] theorem dataAddr_setSt (b : Byte) (k' : Nat) : (s.setSt b).dataAddr k' = s.dataAddr k' := rfl
@[simp] theorem keyDown_setSt (b : Byte) (k' : Byte) : (s.setSt b).keyDown k' = s.keyDown k' := rfl

@[simp] theorem getV_setErr (e : BitVec 3) (x' : RegNo) : (s.setErr e).getV x' = s.getV x' := rfl
@[simp] theorem readByte_setErr (e : BitVec 3) (a' : Nat) : (s.setErr e).readByte a' = s.readByte a' := rfl
@[simp] theorem pixel_setErr (e : BitVec 3) (p' : Nat) : (s.setErr e).pixel p' = s.pixel p' := rfl
@[simp] theorem getStk_setErr (e : BitVec 3) (k' : Fin 16) : (s.setErr e).getStk k' = s.getStk k' := rfl
@[simp] theorem dataAddr_setErr (e : BitVec 3) (k' : Nat) : (s.setErr e).dataAddr k' = s.dataAddr k' := rfl
@[simp] theorem keyDown_setErr (e : BitVec 3) (k' : Byte) : (s.setErr e).keyDown k' = s.keyDown k' := rfl

@[simp] theorem getV_setRnd (r : Option Byte) (x' : RegNo) : (s.setRnd r).getV x' = s.getV x' := rfl
@[simp] theorem readByte_setRnd (r : Option Byte) (a' : Nat) : (s.setRnd r).readByte a' = s.readByte a' := rfl
@[simp] theorem pixel_setRnd (r : Option Byte) (p' : Nat) : (s.setRnd r).pixel p' = s.pixel p' := rfl
@[simp] theorem getStk_setRnd (r : Option Byte) (k' : Fin 16) : (s.setRnd r).getStk k' = s.getStk k' := rfl
@[simp] theorem dataAddr_setRnd (r : Option Byte) (k' : Nat) : (s.setRnd r).dataAddr k' = s.dataAddr k' := rfl
@[simp] theorem keyDown_setRnd (r : Option Byte) (k' : Byte) : (s.setRnd r).keyDown k' = s.keyDown k' := rfl

@[simp] theorem getV_countDraw (x' : RegNo) : (s.countDraw).getV x' = s.getV x' := rfl
@[simp] theorem readByte_countDraw (a' : Nat) : (s.countDraw).readByte a' = s.readByte a' := rfl
@[simp] theorem pixel_countDraw (p' : Nat) : (s.countDraw).pixel p' = s.pixel p' := rfl
@[simp] theorem getStk_countDraw (k' : Fin 16) : (s.countDraw).getStk k' = s.getStk k' := rfl
@[simp] theorem dataAddr_countDraw (k' : Nat) : (s.countDraw).dataAddr k' = s.dataAddr k' := rfl
@[simp] theorem keyDown_countDraw (k' : Byte) : (s.countDraw).keyDown k' = s.keyDown k' := rfl

@[simp] theorem getV_clearFb (x' : RegNo) : (s.clearFb).getV x' = s.getV x' := rfl
@[simp] theorem readByte_clearFb (a' : Nat) : (s.clearFb).readByte a' = s.readByte a' := rfl
@[simp] theorem getStk_clearFb (k' : Fin 16) : (s.clearFb).getStk k' = s.getStk k' := rfl
@[simp] theorem dataAddr_clearFb (k' : Nat) : (s.clearFb).dataAddr k' = s.dataAddr k' := rfl
@[simp] theorem keyDown_clearFb (k' : Byte) : (s.clearFb).keyDown k' = s.keyDown k' := rfl

@[simp] theorem getV_writeBytes (a : Nat) (bs : List Byte) (x' : RegNo) : (s.writeBytes a bs).getV x' = s.getV x' := rfl
@[simp] theorem pixel_writeBytes (a : Nat) (bs : List Byte) (p' : Nat) : (s.writeBytes a bs).pixel p' = s.pixel p' := rfl
@[simp] theorem getStk_writeBytes (a : Nat) (bs : List Byte) (k' : Fin 16) : (s.writeBytes a bs).getStk k' = s.getStk k' := rfl
@[simp] theorem dataAddr_writeBytes (a : Nat) (bs : List Byte) (k' : Nat) : (s.writeBytes a bs).dataAddr k' = s.dataAddr k' := rfl
@[simp] theorem keyDown_writeBytes (a : Nat) (bs : List Byte) (k' : Byte) : (s.writeBytes a bs).keyDown k' = s.keyDown k' := rfl

@[simp] theorem getV_skipIf (c : Bool) (x' : RegNo) : (s.skipIf c).getV x' = s.getV x' := by unfold State.skipIf; split <;> rfl
@[simp] theorem readByte_skipIf (c : Bool) (a' : Nat) : (s.skipIf c).readByte a' = s.readByte a' := by unfold State.skipIf; split <;> rfl
@[simp] theorem pixel_skipIf (c : Bool) (p' : Nat) : (s.skipIf c).pixel p' = s.pixel p' := by unfold State.skipIf; split <;> rfl
@[simp] theorem getStk_skipIf (c : Bool) (k' : Fin 16) : (s.skipIf c).getStk k' = s.getStk k' := by unfold State.skipIf; split <;> rfl
@[simp] theorem dataAddr_skipIf (c : Bool) (k' : Nat) : (s.skipIf c).dataAddr k' = s.dataAddr k' := by unfold State.skipIf; split <;> rfl
@[simp] theorem keyDown_skipIf (c : Bool) (k' : Byte) : (s.skipIf c).keyDown k' = s.keyDown k' := by unfold State.skipIf; split <;> rfl

@[simp] theorem getV_togglePixel (p : Nat) (x' : RegNo) : (s.togglePixel p).getV x' = s.getV x' := by unfold State.togglePixel; split <;> rfl
@[simp] theorem readByte_togglePixel (p : Nat) (a' : Nat) : (s.togglePixel p).readByte a' = s.readByte a' := by unfold State.togglePixel; split <;> rfl
@[simp] theorem getStk_togglePixel (p : Nat) (k' : Fin 16) : (s.togglePixel p).getStk k' = s.getStk k' := by unfold State.togglePixel; split <;> rfl
@[simp] theorem dataAddr_togglePixel (p : Nat) (k' : Nat) : (s.togglePixel p).dataAddr k' = s.dataAddr k' := by unfold State.togglePixel; split <;> rfl
@[simp] theorem keyDown_togglePixel (p : Nat) (k' : Byte) : (s.togglePixel p).keyDown k' = s.keyDown k' := by unfold State.togglePixel; split <;> rfl

/-! ### Drawing any list of pixels touches VF and the framebuffer alone (R141) -/

@[simp] theorem draw_mem (ps : List Nat) : (ps.foldl State.drawPixel s).mem = s.mem := by
  induction ps generalizing s with
  | nil => rfl
  | cons p ps ih => rw [List.foldl_cons, ih, drawPixel_mem]

@[simp] theorem draw_i (ps : List Nat) : (ps.foldl State.drawPixel s).i = s.i := by
  induction ps generalizing s with
  | nil => rfl
  | cons p ps ih => rw [List.foldl_cons, ih, drawPixel_i]

@[simp] theorem draw_pc (ps : List Nat) : (ps.foldl State.drawPixel s).pc = s.pc := by
  induction ps generalizing s with
  | nil => rfl
  | cons p ps ih => rw [List.foldl_cons, ih, drawPixel_pc]

@[simp] theorem draw_stk (ps : List Nat) : (ps.foldl State.drawPixel s).stk = s.stk := by
  induction ps generalizing s with
  | nil => rfl
  | cons p ps ih => rw [List.foldl_cons, ih, drawPixel_stk]

@[simp] theorem draw_sp (ps : List Nat) : (ps.foldl State.drawPixel s).sp = s.sp := by
  induction ps generalizing s with
  | nil => rfl
  | cons p ps ih => rw [List.foldl_cons, ih, drawPixel_sp]

@[simp] theorem draw_dt (ps : List Nat) : (ps.foldl State.drawPixel s).dt = s.dt := by
  induction ps generalizing s with
  | nil => rfl
  | cons p ps ih => rw [List.foldl_cons, ih, drawPixel_dt]

@[simp] theorem draw_st (ps : List Nat) : (ps.foldl State.drawPixel s).st = s.st := by
  induction ps generalizing s with
  | nil => rfl
  | cons p ps ih => rw [List.foldl_cons, ih, drawPixel_st]

@[simp] theorem draw_err (ps : List Nat) : (ps.foldl State.drawPixel s).err = s.err := by
  induction ps generalizing s with
  | nil => rfl
  | cons p ps ih => rw [List.foldl_cons, ih, drawPixel_err]

@[simp] theorem draw_key (ps : List Nat) : (ps.foldl State.drawPixel s).key = s.key := by
  induction ps generalizing s with
  | nil => rfl
  | cons p ps ih => rw [List.foldl_cons, ih, drawPixel_key]

@[simp] theorem draw_rnd (ps : List Nat) : (ps.foldl State.drawPixel s).rnd = s.rnd := by
  induction ps generalizing s with
  | nil => rfl
  | cons p ps ih => rw [List.foldl_cons, ih, drawPixel_rnd]

@[simp] theorem draw_font (ps : List Nat) : (ps.foldl State.drawPixel s).font = s.font := by
  induction ps generalizing s with
  | nil => rfl
  | cons p ps ih => rw [List.foldl_cons, ih, drawPixel_font]

@[simp] theorem draw_draws (ps : List Nat) : (ps.foldl State.drawPixel s).draws = s.draws := by
  induction ps generalizing s with
  | nil => rfl
  | cons p ps ih => rw [List.foldl_cons, ih, drawPixel_draws]

@[simp] theorem readByte_draw (ps : List Nat) (a' : Nat) : (ps.foldl State.drawPixel s).readByte a' = s.readByte a' := by
  simp only [readByte, draw_mem, draw_font]

@[simp] theorem getStk_draw (ps : List Nat) (k' : Fin 16) : (ps.foldl State.drawPixel s).getStk k' = s.getStk k' := by
  simp only [getStk, draw_stk]

@[simp] theorem dataAddr_draw (ps : List Nat) (k' : Nat) : (ps.foldl State.drawPixel s).dataAddr k' = s.dataAddr k' := by
  simp only [dataAddr, draw_i]

@[simp] theorem keyDown_draw (ps : List Nat) (k' : Byte) : (ps.foldl State.drawPixel s).keyDown k' = s.keyDown k' := by
  simp only [keyDown, draw_key]

end Sys2Proof.Machine.State
end

