-- ==== Sys2Proof/Laws/Memory.lean ====
section
/-! SUPPORT. The laws of memory: read after write, a write leaves every other byte alone, every operation keeps the canonical
form. The read laws hold of any list of cells, canonical or not. -/

namespace Sys2Proof.Machine

variable {font : Config.Font} {m : Memory} {a c : Nat} {b : Byte} {bs : List Byte}

theorem Memory.lookup_put_self : Memory.lookup (Memory.put a b m) a = some b := by
  induction m with
  | nil => simp [put, lookup]
  | cons d rest ih =>
    unfold put
    split
    · have : d.1 ≠ a := by omega
      simp [lookup, this, ih]
    · split <;> simp [lookup]

theorem Memory.lookup_put_other (h : c ≠ a) : Memory.lookup (Memory.put a b m) c = Memory.lookup m c := by
  induction m with
  | nil => simp [put, lookup, Ne.symm h]
  | cons d rest ih =>
    unfold put
    split
    · simp [lookup, ih]
    · split
      · have : d.1 ≠ c := by omega
        simp [lookup, Ne.symm h, this]
      · simp [lookup, Ne.symm h]

theorem Memory.lookup_drop_self : Memory.lookup (Memory.drop a m) a = none := by
  induction m with
  | nil => rfl
  | cons d rest ih =>
    unfold drop at *
    by_cases hd : d.1 = a <;> simp_all [lookup]

theorem Memory.lookup_drop_other (h : c ≠ a) : Memory.lookup (Memory.drop a m) c = Memory.lookup m c := by
  induction m with
  | nil => rfl
  | cons d rest ih =>
    unfold drop at *
    by_cases hd : d.1 = a
    · simp_all [lookup, Ne.symm h]
    · by_cases hc : d.1 = c <;> simp_all [lookup]

/-- Reading back what was written (R54). -/
theorem Memory.read_write_self (h : a ≤ Config.memTop) :
    Memory.read font (Memory.write font m a b) a = b := by
  unfold read write
  rw [if_pos h]
  split
  · simp [lookup_drop_self, *]
  · simp [lookup_put_self]

/-- A write changes only the addressed byte (R54). -/
theorem Memory.read_write_other (h : c ≠ a) :
    Memory.read font (Memory.write font m a b) c = Memory.read font m c := by
  unfold read write
  split
  · split
    · rw [lookup_drop_other h]
    · rw [lookup_put_other h]
  · rfl

/-- What a run of bytes written from `a` on reads as, at any address (R54). -/
theorem Memory.read_writeBytes (hb : a + bs.length ≤ Config.memSize) :
    Memory.read font (Memory.writeBytes font m a bs) c =
      if h : a ≤ c ∧ c < a + bs.length then bs[c - a]'(by omega) else Memory.read font m c := by
  induction bs generalizing a m with
  | nil => simp [writeBytes]
  | cons d ds ih =>
    simp only [List.length_cons] at hb ⊢
    rw [writeBytes, ih (by omega)]
    by_cases h1 : c = a
    · subst h1
      have : ¬ (c + 1 ≤ c ∧ c < c + 1 + ds.length) := by omega
      rw [dif_neg this, dif_pos (by omega), read_write_self (by simp only [Config.memTop, Config.memSize] at *; omega)]
      simp
    · rw [read_write_other h1]
      by_cases h2 : a + 1 ≤ c ∧ c < a + 1 + ds.length
      · rw [dif_pos h2, dif_pos (by omega)]
        obtain ⟨k, rfl⟩ : ∃ k, c = a + 1 + k := ⟨c - (a + 1), by omega⟩
        have e : a + 1 + k - a = k + 1 := by omega
        simp [e]
      · rw [dif_neg h2, dif_neg (by omega)]

/-- A run of bytes leaves every address outside it alone, wherever it lies. -/
theorem Memory.read_writeBytes_other (h : c < a ∨ a + bs.length ≤ c) :
    Memory.read font (Memory.writeBytes font m a bs) c = Memory.read font m c := by
  induction bs generalizing a m with
  | nil => rfl
  | cons d ds ih =>
    simp only [List.length_cons] at h
    rw [writeBytes, ih (by omega), read_write_other (by omega)]

theorem Memory.mem_put {d : Host.Cell} (h : d ∈ Memory.put a b m) : d = (a, b) ∨ d ∈ m := by
  induction m with
  | nil => simp_all [put]
  | cons e rest ih =>
    unfold put at h
    split at h
    · rcases List.mem_cons.1 h with h | h
      · exact .inr (h ▸ List.mem_cons_self)
      · exact (ih h).imp_right (List.mem_cons_of_mem _)
    · split at h
      · simp_all; tauto
      · simp_all

theorem Memory.put_sorted (h : m.Pairwise fun c d => c.1 < d.1) :
    (Memory.put a b m).Pairwise fun c d => c.1 < d.1 := by
  induction m with
  | nil => simp [put]
  | cons e rest ih =>
    rw [List.pairwise_cons] at h
    unfold put
    split
    · rw [List.pairwise_cons]
      refine ⟨fun d hd => ?_, ih h.2⟩
      rcases mem_put hd with rfl | hd
      · assumption
      · exact h.1 d hd
    · split
      · rw [List.pairwise_cons]
        exact ⟨fun d hd => by have := h.1 d hd; simp_all, h.2⟩
      · rw [List.pairwise_cons, List.pairwise_cons]
        refine ⟨fun d hd => ?_, h⟩
        have hlt : a < e.1 := by omega
        rcases List.mem_cons.1 hd with rfl | hd
        · exact hlt
        · exact Nat.lt_trans hlt (h.1 d hd)

/-- A write keeps the canonical form. -/
theorem Memory.wf_write (h : Memory.wf font m) : Memory.wf font (Memory.write font m a b) := by
  unfold write
  split
  · split
    · exact ⟨h.1.filter _, fun d hd => h.2 d (List.mem_filter.1 hd).1⟩
    · refine ⟨put_sorted h.1, fun d hd => ?_⟩
      rcases mem_put hd with rfl | hd
      · exact ⟨by assumption, by assumption⟩
      · exact h.2 d hd
  · exact h

/-- A run of writes keeps the canonical form. -/
theorem Memory.wf_writeBytes (h : Memory.wf font m) : Memory.wf font (Memory.writeBytes font m a bs) := by
  induction bs generalizing a m with
  | nil => exact h
  | cons d ds ih => exact ih (wf_write h)

/-- The reset memory has the canonical form. -/
theorem State.reset_memory_wf : Memory.wf State.reset.font State.reset.mem := by
  refine ⟨List.Pairwise.nil, fun c hc => ?_⟩
  exact absurd hc List.not_mem_nil

/-! ### The same for a state -/

/-- What an address reads as after a run of bytes was stored, the run lying in memory. -/
theorem State.readByte_writeBytes (s : State) (hb : a + bs.length ≤ Config.memSize) :
    (s.writeBytes a bs).readByte c =
      if h : a ≤ c ∧ c < a + bs.length then bs[c - a]'(by omega) else s.readByte c :=
  Memory.read_writeBytes hb

/-- An address outside the stored bytes reads as before. -/
theorem State.readByte_writeBytes_other (s : State) (h : c < a ∨ a + bs.length ≤ c) :
    (s.writeBytes a bs).readByte c = s.readByte c :=
  Memory.read_writeBytes_other h

/-- Memory reads depend on the memory and the font alone. -/
theorem State.readByte_congr {s t : State} (hm : t.mem = s.mem) (hf : t.font = s.font) :
    t.readByte a = s.readByte a := by
  unfold readByte
  rw [hm, hf]

end Sys2Proof.Machine
end

