-- ==== Sys2Proof/Laws/Ops.lean ====
section
/-! SUPPORT. One lemma per shared operation on registers, stack and framebuffer: what it does, said once. -/

namespace Sys2Proof.Machine

variable (s : State)

/-! ### Registers -/

/-- Reading a register after a write of one. -/
theorem State.getV_setV (x : RegNo) (b : Byte) (r : RegNo) :
    (s.setV x b).getV r = if r = x then b else s.getV r := by
  simp only [getV, setV, Fin.getElem_fin, Vector.getElem_set, Fin.ext_iff, eq_comm]

/-- Reading a register after VF received a flag. -/
theorem State.getV_setFlag (f : Byte) (r : RegNo) :
    (s.setFlag f).getV r = if r = vf then f else s.getV r :=
  s.getV_setV vf f r

/-! ### Flags, as numbers -/

/-- The carry of 8XY4 (R117). -/
theorem carryFlag_toNat (sum : Nat) : (carryFlag sum).toNat = if 255 < sum then 1 else 0 := by
  unfold carryFlag flagByte
  by_cases h : 255 < sum <;> simp [h]

/-- The flag of the two subtractions: strictly greater (R118, R120). -/
theorem noBorrowFlag_toNat (a b : Byte) : (noBorrowFlag a b).toNat = if b.toNat < a.toNat then 1 else 0 := by
  unfold noBorrowFlag flagByte
  by_cases h : b.toNat < a.toNat <;> simp [h]

/-- The bit shifted out to the right is the remainder (R119). -/
theorem shiftedOutLow_toNat (b : Byte) : (shiftedOutLow b).toNat = b.toNat % 2 := by
  simp [shiftedOutLow, BitVec.toNat_and]

/-- The bit shifted out to the left is the top bit (R121). -/
theorem shiftedOutHigh_toNat (b : Byte) : (shiftedOutHigh b).toNat = b.toNat / 128 := by
  revert b; decide

/-! ### Runs of registers -/

/-- A register after a run of loads. -/
theorem loadRun_getElem (v : Vector Byte 16) (k : Nat) (bs : List Byte) (r : Nat) (hr : r < 16) :
    (loadRun v k bs)[r] = if h : k ≤ r ∧ r < k + bs.length then bs[r - k]'(by omega) else v[r] := by
  induction bs generalizing v k with
  | nil => simp [loadRun]
  | cons b bs ih =>
    rw [loadRun, ih]
    simp only [List.length_cons]
    by_cases h1 : r = k
    · subst h1
      rw [dif_neg (by omega), dif_pos (by omega)]
      simp
    · by_cases h2 : k + 1 ≤ r ∧ r < k + 1 + bs.length
      · rw [dif_pos h2, dif_pos (by omega)]
        obtain ⟨d, rfl⟩ : ∃ d, r = k + 1 + d := ⟨r - (k + 1), by omega⟩
        have e : k + 1 + d - k = d + 1 := by omega
        simp [e]
      · rw [dif_neg h2, dif_neg (by omega)]
        simp [Ne.symm h1]

/-- A register after V0, V1, ... were loaded with `n` bytes of memory from `a` on (R135). -/
theorem State.getV_loadRegs_readBytes (t : State) (a n : Nat) (r : RegNo) :
    (s.loadRegs (t.readBytes a n)).getV r = if r.val < n then t.readByte (a + r.val) else s.getV r := by
  simp only [getV, loadRegs, Fin.getElem_fin]
  rw [loadRun_getElem]
  by_cases h : r.val < n
  · rw [dif_pos (by simp [readBytes, h]), if_pos h]
    simp [readBytes]
  · rw [dif_neg (by simp [readBytes, h]), if_neg h]

/-- The bytes of the first registers, one by one (R134). -/
theorem State.firstRegs_length (n : Nat) (hn : n ≤ 16) : (s.firstRegs n).length = n := by
  simp [firstRegs, hn]

theorem State.firstRegs_getElem (n k : Nat) (hk : k < (s.firstRegs n).length) :
    (s.firstRegs n)[k] = s.getV ⟨k, by simp [firstRegs] at hk; omega⟩ := by
  simp [firstRegs, getV]

/-! ### Program counter -/

/-- PC after an instruction that skips under a condition (R72, R108). -/
theorem State.pc_skipIf_advance (c : Bool) : (s.advance.skipIf c).pc = if c then s.pc + 4 else s.pc + 2 := by
  cases c
  · rfl
  · exact BitVec.add_assoc s.pc 2 2

/-! ### Call stack -/

/-- Reading an entry after one was written. -/
theorem State.getStk_setStk (k : Fin 16) (w : Word) (j : Fin 16) :
    (s.setStk k w).getStk j = if j = k then w else s.getStk j := by
  simp only [getStk, setStk, Fin.getElem_fin, Vector.getElem_set, Fin.ext_iff, eq_comm]

/-- A push below the top succeeds and does this (R102). -/
theorem State.push_of_lt (w : Word) (h : s.sp.val < 16) :
    s.push w = some ((s.setStk ⟨s.sp.val, h⟩ w).setSp ⟨s.sp.val + 1, Nat.succ_lt_succ h⟩) := by
  unfold push
  rw [dif_pos h]

/-- A push at SP = 16 fails (R102). -/
theorem State.push_full (w : Word) (h : s.sp.val = 16) : s.push w = none := by
  unfold push
  rw [dif_neg (by simp [h])]

/-- A pop that takes entry `k` succeeds and does this (R100). -/
theorem State.pop_of_succ (k : Fin 16) (h : s.sp.val = k.val + 1) :
    s.pop = some (s.getStk k, s.setSp ⟨k.val, Nat.lt_succ_of_lt k.isLt⟩) := by
  unfold pop
  rw [if_pos (by omega)]
  simp [h]

/-- A pop at SP = 0 fails (R100). -/
theorem State.pop_empty (h : s.sp.val = 0) : s.pop = none := by
  unfold pop
  rw [if_neg (by omega)]

/-! ### Framebuffer -/

/-- No pixel has an index above 2047 (R34). -/
theorem State.pixel_outside {p : Nat} (h : 2048 ≤ p) : s.pixel p = false := by
  unfold pixel FrameBuffer.pixelAt
  rw [dif_neg (by simp only [Config.fbW, Config.fbH]; omega)]

/-- Toggling one pixel changes that bit and no other (R141). -/
theorem State.pixel_togglePixel (p q : Nat) (hp : p < 2048) :
    (s.togglePixel p).pixel q = (s.pixel q ^^ decide (q = p)) := by
  have h1 : p / Config.fbW < Config.fbH := by simp only [Config.fbW, Config.fbH]; omega
  by_cases hq : q < 2048
  · have h2 : q / Config.fbW < Config.fbH := by simp only [Config.fbW, Config.fbH]; omega
    simp only [pixel, FrameBuffer.pixelAt, togglePixel, h1, h2, dif_pos, Vector.getElem_set]
    simp only [Config.fbW] at *
    by_cases hr : p / 64 = q / 64
    · simp only [hr, if_true, BitVec.getLsbD_xor, BitVec.getLsbD_shiftLeft]
      have : (q % 64 < 64) := by omega
      by_cases hc : q = p
      · subst hc; simp [this]
      · have : ¬ (q % 64 - p % 64 = 0 ∧ ¬ q % 64 < p % 64) := by omega
        simp only [hc, decide_false, Bool.xor_false]
        by_cases hlt : q % 64 < p % 64
        · simp [hlt]
        · have h3 : q % 64 - p % 64 ≠ 0 := by omega
          simp [h3]
    · have : q ≠ p := fun e => hr (by rw [e])
      simp [hr, this]
  · rw [pixel_outside _ (by omega), pixel_outside _ (by omega)]
    have : q ≠ p := by omega
    simp [this]

/-- The cleared framebuffer is dark (R140). -/
@[simp] theorem State.pixel_clearFb (p : Nat) : s.clearFb.pixel p = false := by
  unfold pixel FrameBuffer.pixelAt
  split <;> simp

/-- After one drawn bit (R141). -/
theorem State.pixel_drawPixel (p q : Nat) (hp : p < 2048) :
    (s.drawPixel p).pixel q = (s.pixel q ^^ decide (q = p)) := by
  unfold drawPixel
  rw [pixel_togglePixel _ _ _ hp]
  split <;> simp

theorem State.getV_drawPixel (p : Nat) (r : RegNo) :
    (s.drawPixel p).getV r = if r = vf ∧ s.pixel p = true then 1 else s.getV r := by
  unfold drawPixel
  rw [getV_togglePixel]
  split
  · rw [getV_setFlag]; simp [*, flagByte]
  · simp [*]

/-! ### Drawing a list of distinct pixels -/

variable {s}

/-- Drawing distinct pixels toggles exactly those (R142 (a), (b)). -/
theorem State.pixel_draw {ps : List Nat} (hn : ps.Nodup) (hb : ∀ p ∈ ps, p < 2048) (q : Nat) :
    (ps.foldl State.drawPixel s).pixel q = (s.pixel q ^^ decide (q ∈ ps)) := by
  induction ps generalizing s with
  | nil => simp
  | cons p ps ih =>
    rw [List.nodup_cons] at hn
    rw [List.foldl_cons, ih hn.2 (fun r hr => hb r (List.mem_cons_of_mem _ hr)),
      pixel_drawPixel _ _ _ (hb p List.mem_cons_self)]
    by_cases h : q = p
    · subst h; simp [hn.1]
    · simp [h]

/-- Drawing changes no register but VF, whatever is drawn (R141). -/
theorem State.getV_draw_other (ps : List Nat) {r : RegNo} (hr : r ≠ vf) :
    (ps.foldl State.drawPixel s).getV r = s.getV r := by
  induction ps generalizing s with
  | nil => rfl
  | cons p ps ih => rw [List.foldl_cons, ih, getV_drawPixel, if_neg fun h => hr h.1]

/-- VF becomes 1 exactly when a drawn pixel was lit on entry; no other register changes (R142 (a), (c)). -/
theorem State.getV_draw {ps : List Nat} (hn : ps.Nodup) (hb : ∀ p ∈ ps, p < 2048) (r : RegNo) :
    (ps.foldl State.drawPixel s).getV r =
      if r = vf ∧ ∃ p ∈ ps, s.pixel p = true then 1 else s.getV r := by
  induction ps generalizing s with
  | nil => simp
  | cons p ps ih =>
    rw [List.nodup_cons] at hn
    have hp := hb p List.mem_cons_self
    rw [List.foldl_cons, ih hn.2 (fun r hr => hb r (List.mem_cons_of_mem _ hr)), getV_drawPixel]
    have e : (∃ q ∈ ps, (s.drawPixel p).pixel q = true) ↔ ∃ q ∈ ps, s.pixel q = true := by
      refine exists_congr fun q => and_congr_right fun hq => ?_
      have : q ≠ p := fun e => hn.1 (e ▸ hq)
      rw [pixel_drawPixel _ _ _ hp]; simp [this]
    simp only [e, List.mem_cons, exists_eq_or_imp]
    by_cases h1 : r = vf <;> by_cases h2 : s.pixel p = true <;>
      by_cases h3 : ∃ q ∈ ps, s.pixel q = true <;> simp [h1, h2, h3]

end Sys2Proof.Machine
end

