-- ==== Sys2Proof/Laws/Display.lean ====
section
/-! SUPPORT. The pixels a sprite lands on: all on the grid, no two the same (R142 (a)), and which they are. -/

namespace Sys2Proof.Machine

theorem spritePixel_lt (x0 y0 row col : Nat) : spritePixel x0 y0 row col < 2048 := by
  simp only [spritePixel, Config.fbH, Config.fbW]; omega

/-- Rows below 32 and columns below 8 never meet on a pixel (R142 (a)). -/
theorem spritePixel_inj {x0 y0 r r' c c' : Nat} (hr : r < 32) (hr' : r' < 32) (hc : c < 8) (hc' : c' < 8)
    (h : spritePixel x0 y0 r c = spritePixel x0 y0 r' c') : r = r' ∧ c = c' := by
  simp only [spritePixel, Config.fbH, Config.fbW] at h; omega

theorem mem_rowPixels {b : Byte} {x0 y0 row p : Nat} :
    p ∈ rowPixels b x0 y0 row ↔ ∃ col, col < 8 ∧ spriteBit b col = true ∧ p = spritePixel x0 y0 row col := by
  simp only [rowPixels, List.mem_map, List.mem_filter, List.mem_range, and_assoc, eq_comm]

theorem rowPixels_nodup (b : Byte) (x0 y0 row : Nat) : (rowPixels b x0 y0 row).Nodup := by
  refine List.Nodup.map_on ?_ (List.nodup_range.filter _)
  intro c hc c' hc' h
  simp only [spritePixel, Config.fbH, Config.fbW] at h
  have h1 := List.mem_range.1 (List.mem_filter.1 hc).1
  have h2 := List.mem_range.1 (List.mem_filter.1 hc').1
  omega

variable {s : State} {x0 y0 n p : Nat}

theorem State.spritePixels_lt (h : p ∈ s.spritePixels x0 y0 n) : p < 2048 := by
  obtain ⟨row, -, h⟩ := List.mem_flatMap.1 h
  obtain ⟨col, -, -, rfl⟩ := mem_rowPixels.1 h
  exact spritePixel_lt ..

/-- A sprite of at most 32 rows lands on no pixel twice (R142 (a)). -/
theorem State.spritePixels_nodup (hn : n ≤ 32) : (s.spritePixels x0 y0 n).Nodup := by
  unfold spritePixels
  rw [List.nodup_flatMap]
  refine ⟨fun row _ => rowPixels_nodup .., ?_⟩
  refine List.Pairwise.imp_of_mem ?_ List.pairwise_lt_range
  intro r r' hr hr' hlt p hp hp'
  obtain ⟨c, hc, -, rfl⟩ := mem_rowPixels.1 hp
  obtain ⟨c', hc', -, h⟩ := mem_rowPixels.1 hp'
  have h1 := List.mem_range.1 hr
  have h2 := List.mem_range.1 hr'
  have := (spritePixel_inj (by omega) (by omega) hc hc' h).1
  omega

/-- The pixels a sprite lands on, in the words of R141. -/
theorem State.mem_spritePixels : p ∈ s.spritePixels x0 y0 n ↔ SpriteCovers s x0 y0 n p := by
  unfold spritePixels SpriteCovers
  simp only [List.mem_flatMap, List.mem_range, mem_rowPixels]
  rfl

/-- Where a sprite lands depends on memory and I alone. -/
theorem SpriteCovers.congr {t : State} (hm : ∀ a, t.readByte a = s.readByte a) (hi : t.i = s.i) :
    SpriteCovers t x0 y0 n p ↔ SpriteCovers s x0 y0 n p := by
  unfold SpriteCovers; simp only [hm, hi]

end Sys2Proof.Machine
end

