-- ==== Sys2Proof/Laws/Exec.lean ====
section
/-! SUPPORT. For each instruction that can fault, when it does and what it does otherwise, as an equation; and that every
instruction either records its one fault or keeps its frame (R65, R162). The other instructions' equations hold by `rfl`. -/

namespace Sys2Proof.Machine

variable (s : State)

/-- The bounds check of R57 in numbers. -/
theorem State.accessInBounds_iff (n : Nat) : s.accessInBounds n = true ↔ n = 0 ∨ s.i.toNat + (n - 1) ≤ 0xFFF := by
  simp only [accessInBounds, inMemory, Bool.or_eq_true]
  exact or_congr decide_eq_true_iff decide_eq_true_iff

/-! ### Flow -/

theorem exec_ret_of_succ (k : Fin 16) (h : s.sp.val = k.val + 1) :
    exec .ret s = .next ((s.advance.setSp ⟨k.val, Nat.lt_succ_of_lt k.isLt⟩).setPc (s.getStk k)) := by
  simp only [exec, execRet, s.advance.pop_of_succ k h, State.getStk_advance]

theorem exec_ret_empty (h : s.sp.val = 0) : exec .ret s = raise .stackUnderflow s := by
  simp only [exec, execRet, s.advance.pop_empty h]

theorem exec_call_of_lt (nnn : BitVec 12) (h : s.sp.val < 16) :
    exec (.call nnn) s = .next (((s.advance.setStk ⟨s.sp.val, h⟩ (s.pc + 2)).setSp
      ⟨s.sp.val + 1, Nat.succ_lt_succ h⟩).setPc (immAddr nnn)) := by
  simp only [exec, execCall, s.advance.push_of_lt _ h]
  rfl

theorem exec_call_full (nnn : BitVec 12) (h : s.sp.val = 16) : exec (.call nnn) s = raise .stackOverflow s := by
  simp only [exec, execCall, s.advance.push_full _ h]

theorem exec_seVxNn_pc (x : RegNo) (nn : Byte) :
    ∃ t, exec (.seVxNn x nn) s = .next t ∧ t.pc = if s.getV x = nn then s.pc + 4 else s.pc + 2 := by
  refine ⟨_, rfl, ?_⟩
  rw [State.pc_skipIf_advance]
  by_cases h : s.getV x = nn <;> simp [h]

theorem exec_sneVxNn_pc (x : RegNo) (nn : Byte) :
    ∃ t, exec (.sneVxNn x nn) s = .next t ∧ t.pc = if s.getV x = nn then s.pc + 2 else s.pc + 4 := by
  refine ⟨_, rfl, ?_⟩
  rw [State.pc_skipIf_advance]
  by_cases h : s.getV x = nn <;> simp [h]

theorem exec_seVxVy_pc (x y : RegNo) :
    ∃ t, exec (.seVxVy x y) s = .next t ∧ t.pc = if s.getV x = s.getV y then s.pc + 4 else s.pc + 2 := by
  refine ⟨_, rfl, ?_⟩
  rw [State.pc_skipIf_advance]
  by_cases h : s.getV x = s.getV y <;> simp [h]

theorem exec_sneVxVy_pc (x y : RegNo) :
    ∃ t, exec (.sneVxVy x y) s = .next t ∧ t.pc = if s.getV x = s.getV y then s.pc + 2 else s.pc + 4 := by
  refine ⟨_, rfl, ?_⟩
  rw [State.pc_skipIf_advance]
  by_cases h : s.getV x = s.getV y <;> simp [h]

/-! ### Index and memory -/

theorem exec_addIVx_of_le (x : RegNo) (h : s.i.toNat + (s.getV x).toNat ≤ 0xFFFF) :
    exec (.addIVx x) s = .next (s.advance.setI (BitVec.ofNat 16 (s.i.toNat + (s.getV x).toNat))) := by
  simp only [exec, execAddIVx]
  rw [if_neg (by omega)]

theorem exec_addIVx_of_gt (x : RegNo) (h : 0xFFFF < s.i.toNat + (s.getV x).toNat) :
    exec (.addIVx x) s = raise .outOfBoundsAccess s := by
  simp only [exec, execAddIVx]
  rw [if_pos h]

theorem exec_ldBVx_of_in (x : RegNo) (h : s.accessInBounds 3 = true) :
    exec (.ldBVx x) s = .next (s.advance.writeBytes (s.dataAddr 0) (decimalDigits (s.getV x))) := by
  simp only [exec, execLdBVx, h, if_true]

theorem exec_ldBVx_of_out (x : RegNo) (h : ¬ s.accessInBounds 3 = true) :
    exec (.ldBVx x) s = raise .outOfBoundsAccess s := by
  simp only [exec, execLdBVx, h, Bool.false_eq_true, if_false]

theorem exec_ldMemVx_of_in (x : RegNo) (h : s.accessInBounds (x.val + 1) = true) :
    exec (.ldMemVx x) s = .next (s.advance.writeBytes (s.dataAddr 0) (s.firstRegs (x.val + 1))) := by
  simp only [exec, execLdMemVx, h, if_true]

theorem exec_ldMemVx_of_out (x : RegNo) (h : ¬ s.accessInBounds (x.val + 1) = true) :
    exec (.ldMemVx x) s = raise .outOfBoundsAccess s := by
  simp only [exec, execLdMemVx, h, Bool.false_eq_true, if_false]

theorem exec_ldVxMem_of_in (x : RegNo) (h : s.accessInBounds (x.val + 1) = true) :
    exec (.ldVxMem x) s = .next (s.advance.loadRegs (s.readBytes (s.dataAddr 0) (x.val + 1))) := by
  simp only [exec, execLdVxMem, h, if_true]

theorem exec_ldVxMem_of_out (x : RegNo) (h : ¬ s.accessInBounds (x.val + 1) = true) :
    exec (.ldVxMem x) s = raise .outOfBoundsAccess s := by
  simp only [exec, execLdVxMem, h, Bool.false_eq_true, if_false]

/-! ### Display -/

/-- The pixels DXYN draws, in order: VF is already cleared when the coordinates are read (R141 (e)). -/
def drawnPixels (x y : RegNo) (n : Nat) : List Nat :=
  let t := s.advance.setFlag (flagByte false)
  t.spritePixels (t.getV x).toNat (t.getV y).toNat n

theorem exec_drw_of_in (x y : RegNo) (n : Nat) (h : s.accessInBounds n = true) :
    exec (.drw x y n) s =
      .next ((drawnPixels s x y n).foldl State.drawPixel (s.advance.setFlag (flagByte false))) := by
  simp only [exec, execDrw, h, if_true, drawnPixels]

theorem exec_drw_of_out (x y : RegNo) (n : Nat) (h : ¬ s.accessInBounds n = true) :
    exec (.drw x y n) s = raise .outOfBoundsAccess s := by
  simp only [exec, execDrw, h, Bool.false_eq_true, if_false]

theorem drawCoord_eq (x : RegNo) : ((s.advance.setFlag (flagByte false)).getV x).toNat = drawCoord s x := by
  rw [State.getV_setFlag]
  unfold drawCoord
  split <;> simp [flagByte]

/-- Which pixels those are, in the words of R141. -/
theorem mem_drawnPixels (x y : RegNo) (n p : Nat) :
    p ∈ drawnPixels s x y n ↔ SpriteCovers s (drawCoord s x) (drawCoord s y) n p := by
  unfold drawnPixels
  simp only [State.mem_spritePixels, drawCoord_eq]
  exact SpriteCovers.congr (by simp) (by simp)

/-- They are pixels of the grid (R141 (c)). -/
theorem drawnPixels_lt {x y : RegNo} {n p : Nat} (h : p ∈ drawnPixels s x y n) : p < 2048 :=
  State.spritePixels_lt h

/-- No two of them are the same (R142 (a)). -/
theorem drawnPixels_nodup (x y : RegNo) {n : Nat} (hn : n ≤ 32) : (drawnPixels s x y n).Nodup :=
  State.spritePixels_nodup hn

/-! ### Keys -/

theorem exec_skp_of_key (x : RegNo) (k : Fin 16) (h : (s.getV x).toNat = k.val) :
    exec (.skp x) s = .next (s.advance.skipIf s.key[k]) := by
  simp [exec, execSkp, State.keyDown, h]

theorem exec_sknp_of_key (x : RegNo) (k : Fin 16) (h : (s.getV x).toNat = k.val) :
    exec (.sknp x) s = .next (s.advance.skipIf (!s.key[k])) := by
  simp [exec, execSknp, State.keyDown, h]

theorem exec_skp_of_out (x : RegNo) (h : 15 < (s.getV x).toNat) : exec (.skp x) s = raise .outOfBoundsAccess s := by
  have : s.keyDown (s.getV x) = none := by simp only [State.keyDown, Vector.getElem?_eq_none_iff]; omega
  simp only [exec, execSkp, this]

theorem exec_sknp_of_out (x : RegNo) (h : 15 < (s.getV x).toNat) : exec (.sknp x) s = raise .outOfBoundsAccess s := by
  have : s.keyDown (s.getV x) = none := by simp only [State.keyDown, Vector.getElem?_eq_none_iff]; omega
  simp only [exec, execSknp, this]

/-! ### Every instruction -/

/-- What an instruction that records no fault does: it answers next, keeps ERR, its frame and the bytes it does not store. -/
def Completes (i : Instr) : Prop :=
  ∃ t, exec i s = .next t ∧ t.err = s.err ∧ Frame (writtenParts i) s t ∧ OtherBytes (s.dataAddr 0) (storedCount i) s t

variable {s}

/-- The fault that instruction `i` can raise is raised, or the instruction completes (R162, R163). -/
theorem exec_cases (i : Instr) : (∃ e, possibleFault i = some e ∧ exec i s = raise e s) ∨ Completes s i := by
  cases i with
  | ret =>
    by_cases h : s.sp.val = 0
    · exact .inl ⟨_, rfl, exec_ret_empty s h⟩
    · have := s.sp.isLt
      refine .inr ⟨_, exec_ret_of_succ s ⟨s.sp.val - 1, by omega⟩ (by simp; omega), by simp, ?_, fun c _ => by simp⟩
      intro p hp; cases p <;> simp_all [Agree, writtenParts]
  | call nnn =>
    by_cases h : s.sp.val < 16
    · refine .inr ⟨_, exec_call_of_lt s nnn h, by simp, ?_, fun c _ => by simp⟩
      intro p hp; cases p <;> simp_all [Agree, writtenParts]
    · exact .inl ⟨_, rfl, exec_call_full s nnn (by have := s.sp.isLt; omega)⟩
  | drw x y n =>
    by_cases h : s.accessInBounds n = true
    · refine .inr ⟨_, exec_drw_of_in s x y n h, by simp, ?_, fun c _ => by simp⟩
      intro p hp; cases p <;> simp_all [Agree, writtenParts]
    · exact .inl ⟨_, rfl, exec_drw_of_out s x y n h⟩
  | skp x =>
    by_cases h : (s.getV x).toNat ≤ 15
    · refine .inr ⟨_, exec_skp_of_key s x ⟨(s.getV x).toNat, by omega⟩ rfl, by simp, ?_, fun c _ => by simp⟩
      intro p hp; cases p <;> simp_all [Agree, writtenParts]
    · exact .inl ⟨_, rfl, exec_skp_of_out s x (by omega)⟩
  | sknp x =>
    by_cases h : (s.getV x).toNat ≤ 15
    · refine .inr ⟨_, exec_sknp_of_key s x ⟨(s.getV x).toNat, by omega⟩ rfl, by simp, ?_, fun c _ => by simp⟩
      intro p hp; cases p <;> simp_all [Agree, writtenParts]
    · exact .inl ⟨_, rfl, exec_sknp_of_out s x (by omega)⟩
  | addIVx x =>
    by_cases h : s.i.toNat + (s.getV x).toNat ≤ 0xFFFF
    · refine .inr ⟨_, exec_addIVx_of_le s x h, by simp, ?_, fun c _ => by simp⟩
      intro p hp; cases p <;> simp_all [Agree, writtenParts]
    · exact .inl ⟨_, rfl, exec_addIVx_of_gt s x (by omega)⟩
  | ldBVx x =>
    by_cases h : s.accessInBounds 3 = true
    · refine .inr ⟨_, exec_ldBVx_of_in s x h, by simp, ?_, fun c hc => ?_⟩
      · intro p hp; cases p <;> simp_all [Agree, writtenParts]
      · rw [State.readByte_writeBytes_other _ hc, State.readByte_advance]
    · exact .inl ⟨_, rfl, exec_ldBVx_of_out s x h⟩
  | ldMemVx x =>
    by_cases h : s.accessInBounds (x.val + 1) = true
    · refine .inr ⟨_, exec_ldMemVx_of_in s x h, by simp, ?_, fun c hc => ?_⟩
      · intro p hp; cases p <;> simp_all [Agree, writtenParts]
      · rw [State.readByte_writeBytes_other, State.readByte_advance]
        rwa [s.firstRegs_length _ (by omega)]
    · exact .inl ⟨_, rfl, exec_ldMemVx_of_out s x h⟩
  | ldVxMem x =>
    by_cases h : s.accessInBounds (x.val + 1) = true
    · refine .inr ⟨_, exec_ldVxMem_of_in s x h, by simp, ?_, fun c _ => by simp⟩
      intro p hp; cases p <;> simp_all [Agree, writtenParts]
    · exact .inl ⟨_, rfl, exec_ldVxMem_of_out s x h⟩
  | _ =>
    refine .inr ⟨_, rfl, by simp, ?_, fun c _ => by simp⟩
    intro p hp; cases p <;> simp_all [Agree, writtenParts]

end Sys2Proof.Machine
end

