-- ==== Sys2Proof/Laws/Step.lean ====
section
/-! SUPPORT. What a step can do, said once (R70, R167). -/

namespace Sys2Proof.Machine

variable (s : State)

/-- The word at PC, high byte first (R71). -/
def State.wordAtPc : Word := wordOfBytes (s.readByte s.pc.toNat) (s.readByte (s.pc.toNat + 1))

/-- Decoding what is fetched is decoding the word at PC (R71). -/
theorem decode_fetchBytes :
    decode s.fetchBytes =
      match decodeWord s.wordAtPc with
      | .ok i => .ok (i, [])
      | .error r => .error r := rfl

theorem State.halted_iff : s.halted = true ↔ s.err ≠ 0 := decide_eq_true_iff

theorem State.fetchInBounds_iff : s.fetchInBounds = true ↔ s.pc.toNat ≤ 0xFFE := decide_eq_true_iff

/-- The four cases of a step, in the order of its checks (R167). -/
theorem step_cases :
    (s.err ≠ 0 ∧ step s = .next s) ∨
    (s.err = 0 ∧ 0xFFE < s.pc.toNat ∧ step s = raise .outOfBoundsAccess s) ∨
    (s.err = 0 ∧ s.pc.toNat ≤ 0xFFE ∧ (∃ r, decodeWord s.wordAtPc = .error r) ∧
      step s = raise .illegalInstruction s) ∨
    (s.err = 0 ∧ s.pc.toNat ≤ 0xFFE ∧ ∃ i, decodeWord s.wordAtPc = .ok i ∧ step s = exec i s) := by
  by_cases h : s.err = 0
  · have h1 : ¬ s.halted = true := by rw [s.halted_iff]; exact not_not_intro h
    by_cases hp : s.pc.toNat ≤ 0xFFE
    · have h2 : s.fetchInBounds = true := s.fetchInBounds_iff.2 hp
      right; right
      cases hd : decodeWord s.wordAtPc with
      | error r => exact .inl ⟨h, hp, ⟨r, rfl⟩, by simp only [step, h1, h2, decode_fetchBytes, hd]; rfl⟩
      | ok i => exact .inr ⟨h, hp, i, rfl, by simp only [step, h1, h2, decode_fetchBytes, hd]; rfl⟩
    · have h2 : ¬ s.fetchInBounds = true := by rw [s.fetchInBounds_iff]; exact hp
      exact .inr (.inl ⟨h, by omega, by simp only [step, h1, h2]; rfl⟩)
  · exact .inl ⟨h, by simp only [step, s.halted_iff.2 h, if_true]⟩

end Sys2Proof.Machine
end

