-- ==== Sys2Proof/Laws/Commands.lean ====
section
/-! SUPPORT. What frames compose to, and what the commands do: STEP(r) from its step, a timer and the output
SOUND under the others; and what a safe run is. -/

namespace Sys2Proof.Machine

variable {s t u : State} {written : List Part} {p : Part}

/-- A state has the same pieces as itself. -/
theorem Agree.refl (s : State) (p : Part) : Agree s s p := by
  cases p <;> simp [Agree]

theorem Agree.trans (h : Agree s t p) (h' : Agree t u p) : Agree s u p := by
  cases p <;> simp_all [Agree]

theorem Frame.refl (written : List Part) (s : State) : Frame written s s := fun p _ => Agree.refl s p

/-- What two steps leave alone, their sequence leaves alone. -/
theorem Frame.trans (h : Frame written s t) (h' : Frame written t u) : Frame written s u :=
  fun p hp => (h p hp).trans (h' p hp)

/-- A timer after a TICK, as a number: one less, stopping at 0 (R175). -/
theorem countDown_toNat (b : Byte) : (countDown b).toNat = b.toNat - 1 := by
  revert b; decide

/-- SOUND is on exactly while the sound timer is not 0 (R180). -/
theorem State.sound_iff (s : State) : s.sound = true ↔ s.st ≠ 0 := decide_eq_true_iff

/-- The command STEP(r), from the step it makes (R70): the random input is put back. -/
theorem command_step_of_next {r : Byte} (h : step (s.setRnd (some r)) = .next t) :
    command (.step r) s = .next (t.setRnd s.rnd) := by
  simp only [command, stepCommand, h]

/-! ### Runs -/

variable {c : Command} {cs ds : List Command}

theorem run_cons_of_next (h : command c s = .next t) : run (c :: cs) s = run cs t := by
  simp only [run, h]

/-- A run that answers next does so by a first command that does. -/
theorem run_cons_eq_next : run (c :: cs) s = .next u ↔ ∃ t, command c s = .next t ∧ run cs t = .next u := by
  simp only [run]
  cases command c s <;> simp

theorem SafeRun.noFault (h : SafeRun cs s) : NoFault s := by
  cases cs with
  | nil => exact h
  | cons c cs => exact h.1

/-- ERR = 0 throughout (R164): a run is safe exactly when every beginning of it, the whole among them, answers a state with
ERR = 0. -/
theorem safeRun_iff_prefixes : SafeRun cs s ↔ ∀ n, ∃ t, run (cs.take n) s = .next t ∧ NoFault t := by
  induction cs generalizing s with
  | nil => simp [SafeRun, run]
  | cons c cs ih =>
    constructor
    · rintro ⟨h, t, hc, ht⟩ n
      cases n with
      | zero => exact ⟨s, rfl, h⟩
      | succ n => rw [List.take_succ_cons, run_cons_of_next hc]; exact ih.1 ht n
    · intro h
      obtain ⟨s', hs, h0⟩ := h 0
      cases hs
      obtain ⟨u, hu, -⟩ := h 1
      obtain ⟨t, hc, -⟩ := run_cons_eq_next.1 hu
      exact ⟨h0, t, hc, ih.2 fun n => by
        have := h (n + 1)
        rwa [List.take_succ_cons, run_cons_of_next hc] at this⟩

/-- A safe run answers an end state, and ERR is 0 there. -/
theorem SafeRun.ends (h : SafeRun cs s) : ∃ t, run cs s = .next t ∧ NoFault t := by
  simpa using safeRun_iff_prefixes.1 h cs.length

/-- A run that faults on the way is not safe, whatever comes after, RESET included (R164). -/
theorem not_safeRun_of_fault (h : run cs s = .next t) (ht : ¬ NoFault t) : ¬ SafeRun (cs ++ ds) s := by
  intro hs
  obtain ⟨u, hu, h0⟩ := safeRun_iff_prefixes.1 hs cs.length
  rw [List.take_left, h] at hu
  cases hu
  exact ht h0

end Sys2Proof.Machine
end

