-- ==== Sys2Proof/Laws/Decode.lean ====
section
/-! SUPPORT. The fields of a word as numbers, the words that the encoder builds, and their fields (R73, R74). -/

namespace Sys2Proof

/-! ### Fields as numbers -/

theorem nibA_toNat (w : Word) : (nibA w).toNat = w.toNat / 4096 := by
  simp only [nibA, BitVec.extractLsb'_toNat, Nat.shiftRight_eq_div_pow]; have := w.isLt; omega

theorem nibD_toNat (w : Word) : (nibD w).toNat = w.toNat % 16 := by
  simp [nibD]

theorem fieldX_val (w : Word) : (fieldX w).val = w.toNat / 256 % 16 := by
  simp [fieldX, Nat.shiftRight_eq_div_pow]

theorem fieldY_val (w : Word) : (fieldY w).val = w.toNat / 16 % 16 := by
  simp [fieldY, Nat.shiftRight_eq_div_pow]

theorem fieldNN_toNat (w : Word) : (fieldNN w).toNat = w.toNat % 256 := by
  simp [fieldNN]

theorem fieldNNN_toNat (w : Word) : (fieldNNN w).toNat = w.toNat % 4096 := by
  simp [fieldNNN]

/-! ### Built words as numbers -/

variable (a d : BitVec 4) (x y : RegNo) (nn : Byte) (nnn : BitVec 12)

theorem toNat_append_add {m n : Nat} (p : BitVec m) (q : BitVec n) :
    (p ++ q).toNat = p.toNat * 2 ^ n + q.toNat := by
  rw [BitVec.toNat_append, ← Nat.shiftLeft_add_eq_or_of_lt q.isLt, Nat.shiftLeft_eq]

@[simp] theorem regBits_toNat : (regBits x).toNat = x.val := by
  simp only [regBits, BitVec.toNat_ofNat]; omega

theorem wordXNN_toNat : (wordXNN a x nn).toNat = a.toNat * 4096 + x.val * 256 + nn.toNat := by
  simp only [wordXNN, toNat_append_add, regBits_toNat]; omega

theorem wordXYD_toNat : (wordXYD a x y d).toNat = a.toNat * 4096 + x.val * 256 + y.val * 16 + d.toNat := by
  simp only [wordXYD, toNat_append_add, regBits_toNat]; omega

theorem wordNNN_toNat : (wordNNN a nnn).toNat = a.toNat * 4096 + nnn.toNat := by
  simp only [wordNNN, toNat_append_add, Nat.reducePow]

/-! ### Fields of built words -/

@[simp] theorem nibA_wordXNN : nibA (wordXNN a x nn) = a := by
  apply BitVec.eq_of_toNat_eq; rw [nibA_toNat, wordXNN_toNat]; omega

@[simp] theorem fieldX_wordXNN : fieldX (wordXNN a x nn) = x := by
  apply Fin.ext; rw [fieldX_val, wordXNN_toNat]; omega

@[simp] theorem fieldNN_wordXNN : fieldNN (wordXNN a x nn) = nn := by
  apply BitVec.eq_of_toNat_eq; rw [fieldNN_toNat, wordXNN_toNat]; omega

@[simp] theorem nibA_wordXYD : nibA (wordXYD a x y d) = a := by
  apply BitVec.eq_of_toNat_eq; rw [nibA_toNat, wordXYD_toNat]; omega

@[simp] theorem fieldX_wordXYD : fieldX (wordXYD a x y d) = x := by
  apply Fin.ext; rw [fieldX_val, wordXYD_toNat]; omega

@[simp] theorem fieldY_wordXYD : fieldY (wordXYD a x y d) = y := by
  apply Fin.ext; rw [fieldY_val, wordXYD_toNat]; omega

@[simp] theorem nibD_wordXYD : nibD (wordXYD a x y d) = d := by
  apply BitVec.eq_of_toNat_eq; rw [nibD_toNat, wordXYD_toNat]; omega

@[simp] theorem nibA_wordNNN : nibA (wordNNN a nnn) = a := by
  apply BitVec.eq_of_toNat_eq; rw [nibA_toNat, wordNNN_toNat]; omega

@[simp] theorem fieldNNN_wordNNN : fieldNNN (wordNNN a nnn) = nnn := by
  apply BitVec.eq_of_toNat_eq; rw [fieldNNN_toNat, wordNNN_toNat]; omega

/-! ### A word is built from its fields -/

theorem wordXNN_fields (w : Word) : wordXNN (nibA w) (fieldX w) (fieldNN w) = w := by
  apply BitVec.eq_of_toNat_eq
  rw [wordXNN_toNat, nibA_toNat, fieldX_val, fieldNN_toNat]; have := w.isLt; omega

theorem wordXYD_fields (w : Word) : wordXYD (nibA w) (fieldX w) (fieldY w) (nibD w) = w := by
  apply BitVec.eq_of_toNat_eq
  rw [wordXYD_toNat, nibA_toNat, fieldX_val, fieldY_val, nibD_toNat]; have := w.isLt; omega

theorem wordNNN_fields (w : Word) : wordNNN (nibA w) (fieldNNN w) = w := by
  apply BitVec.eq_of_toNat_eq
  rw [wordNNN_toNat, nibA_toNat, fieldNNN_toNat]; have := w.isLt; omega

/-- The two bytes of a word make the word (R52). -/
theorem wordOfBytes_bytesOfWord (w : Word) (hi lo : Byte) (h : bytesOfWord w = [hi, lo]) : wordOfBytes hi lo = w := by
  simp only [bytesOfWord, List.cons.injEq, and_true] at h
  obtain ⟨rfl, rfl⟩ := h
  apply BitVec.eq_of_toNat_eq
  simp only [wordOfBytes, toNat_append_add, BitVec.extractLsb'_toNat, Nat.shiftRight_eq_div_pow]
  have := w.isLt; omega

/-- Decoding two bytes is decoding their word (R71, R73). -/
theorem decode_pair (hi lo : Byte) (rest : List Byte) :
    decode (hi :: lo :: rest) =
      match decodeWord (wordOfBytes hi lo) with
      | .ok i => .ok (i, rest)
      | .error r => .error r := rfl

/-- No two rows of the opcode table share a word (R75: "the masks are disjoint"): where two rows both fix a bit, some such
bit differs. -/
theorem opcodeTable_disjoint :
    opcodeTable.Pairwise fun r q => (r.pattern ^^^ q.pattern) &&& (r.mask &&& q.mask) ≠ 0 := by decide

/-- The table has 33 rows (R75, C1). -/
theorem opcodeTable_length : opcodeTable.length = 33 := by decide

end Sys2Proof
end

