-- ==== Sys2Proof/Laws/PerInstr.lean ====
section
/-! SUPPORT. Statements made per instruction: `MatchesRow`, that the encoder's word lies in the instruction's own row of the
opcode table (R75). -/

namespace Sys2Proof.Laws.MatchesRow

/-- The word of a well-formed instruction matches a row of the opcode table that has the instruction's mnemonic (R75). -/
def Statement (i : Instr) : Prop :=
  WellFormed i → ∃ r ∈ opcodeTable, r.mnemonic = mnemonic i ∧ r.hits (encodeWord i) = true

variable (a d : BitVec 4) (x y : RegNo) (nn : Byte) (nnn : BitVec 12)

/-- The mask of the rows whose only fixed nibble is `a`. -/
theorem wordNNN_masked : wordNNN a nnn &&& 0xF000 = wordNNN a 0 := by
  have e : (0xF000 : Word) = (0xF : BitVec 4) ++ (0 : BitVec 12) := by decide
  rw [wordNNN, e, BitVec.and_append]
  simp [wordNNN, show a &&& 15#4 = a from BitVec.and_allOnes]

theorem wordXNN_masked_family : wordXNN a x nn &&& 0xF000 = wordXNN a 0 0 := by
  have e : (0xF000 : Word) = (0xF : BitVec 4) ++ (0 : BitVec 4) ++ (0 : BitVec 8) := by decide
  rw [wordXNN, e, BitVec.and_append, BitVec.and_append]
  simp [wordXNN, regBits, show a &&& 15#4 = a from BitVec.and_allOnes]

/-- The mask of the rows with a function byte. -/
theorem wordXNN_masked_byte : wordXNN a x nn &&& 0xF0FF = wordXNN a 0 nn := by
  have e : (0xF0FF : Word) = (0xF : BitVec 4) ++ (0 : BitVec 4) ++ (0xFF : BitVec 8) := by decide
  rw [wordXNN, e, BitVec.and_append, BitVec.and_append]
  simp [wordXNN, regBits, show a &&& 15#4 = a from BitVec.and_allOnes,
    show nn &&& 255#8 = nn from BitVec.and_allOnes]

/-- The mask of the rows with a function nibble. -/
theorem wordXYD_masked_nibble : wordXYD a x y d &&& 0xF00F = wordXYD a 0 0 d := by
  have e : (0xF00F : Word) = (0xF : BitVec 4) ++ (0 : BitVec 4) ++ (0 : BitVec 4) ++ (0xF : BitVec 4) := by decide
  rw [wordXYD, e, BitVec.and_append, BitVec.and_append, BitVec.and_append]
  simp [wordXYD, regBits, show a &&& 15#4 = a from BitVec.and_allOnes, show d &&& 15#4 = d from BitVec.and_allOnes]

theorem wordXYD_masked_family : wordXYD a x y d &&& 0xF000 = wordXYD a 0 0 0 := by
  have e : (0xF000 : Word) = (0xF : BitVec 4) ++ (0 : BitVec 4) ++ (0 : BitVec 4) ++ (0 : BitVec 4) := by decide
  rw [wordXYD, e, BitVec.and_append, BitVec.and_append, BitVec.and_append]
  simp [wordXYD, regBits, show a &&& 15#4 = a from BitVec.and_allOnes]

/-- A row of the table whose mask leaves exactly its pattern of the instruction's word. -/
theorem of_row {i : Instr} (k : Nat) (hk : k < opcodeTable.length) (hm : opcodeTable[k].mnemonic = mnemonic i)
    (hw : encodeWord i &&& opcodeTable[k].mask = opcodeTable[k].pattern) : Statement i :=
  fun _ => ⟨opcodeTable[k], List.getElem_mem hk, hm, decide_eq_true hw⟩

theorem cls : Statement (.cls) :=
  of_row 0 (by decide) rfl (by decide)
theorem ret : Statement (.ret) :=
  of_row 1 (by decide) rfl (by decide)
theorem jp (nnn : BitVec 12) : Statement (.jp nnn) :=
  of_row 2 (by decide) rfl ((wordNNN_masked ..).trans (by decide))
theorem call (nnn : BitVec 12) : Statement (.call nnn) :=
  of_row 3 (by decide) rfl ((wordNNN_masked ..).trans (by decide))
theorem seVxNn (x : RegNo) (nn : Byte) : Statement (.seVxNn x nn) :=
  of_row 4 (by decide) rfl ((wordXNN_masked_family ..).trans (by decide))
theorem sneVxNn (x : RegNo) (nn : Byte) : Statement (.sneVxNn x nn) :=
  of_row 5 (by decide) rfl ((wordXNN_masked_family ..).trans (by decide))
theorem seVxVy (x y : RegNo) : Statement (.seVxVy x y) :=
  of_row 6 (by decide) rfl ((wordXYD_masked_nibble ..).trans (by decide))
theorem ldVxNn (x : RegNo) (nn : Byte) : Statement (.ldVxNn x nn) :=
  of_row 7 (by decide) rfl ((wordXNN_masked_family ..).trans (by decide))
theorem addVxNn (x : RegNo) (nn : Byte) : Statement (.addVxNn x nn) :=
  of_row 8 (by decide) rfl ((wordXNN_masked_family ..).trans (by decide))
theorem ldVxVy (x y : RegNo) : Statement (.ldVxVy x y) :=
  of_row 9 (by decide) rfl ((wordXYD_masked_nibble ..).trans (by decide))
theorem or (x y : RegNo) : Statement (.or x y) :=
  of_row 10 (by decide) rfl ((wordXYD_masked_nibble ..).trans (by decide))
theorem and (x y : RegNo) : Statement (.and x y) :=
  of_row 11 (by decide) rfl ((wordXYD_masked_nibble ..).trans (by decide))
theorem xor (x y : RegNo) : Statement (.xor x y) :=
  of_row 12 (by decide) rfl ((wordXYD_masked_nibble ..).trans (by decide))
theorem addVxVy (x y : RegNo) : Statement (.addVxVy x y) :=
  of_row 13 (by decide) rfl ((wordXYD_masked_nibble ..).trans (by decide))
theorem sub (x y : RegNo) : Statement (.sub x y) :=
  of_row 14 (by decide) rfl ((wordXYD_masked_nibble ..).trans (by decide))
theorem shr (x yIgnored : RegNo) : Statement (.shr x yIgnored) :=
  of_row 15 (by decide) rfl ((wordXYD_masked_nibble ..).trans (by decide))
theorem subn (x y : RegNo) : Statement (.subn x y) :=
  of_row 16 (by decide) rfl ((wordXYD_masked_nibble ..).trans (by decide))
theorem shl (x yIgnored : RegNo) : Statement (.shl x yIgnored) :=
  of_row 17 (by decide) rfl ((wordXYD_masked_nibble ..).trans (by decide))
theorem sneVxVy (x y : RegNo) : Statement (.sneVxVy x y) :=
  of_row 18 (by decide) rfl ((wordXYD_masked_nibble ..).trans (by decide))
theorem ldINnn (nnn : BitVec 12) : Statement (.ldINnn nnn) :=
  of_row 19 (by decide) rfl ((wordNNN_masked ..).trans (by decide))
theorem jpV0Nnn (nnn : BitVec 12) : Statement (.jpV0Nnn nnn) :=
  of_row 20 (by decide) rfl ((wordNNN_masked ..).trans (by decide))
theorem rnd (x : RegNo) (nn : Byte) : Statement (.rnd x nn) :=
  of_row 21 (by decide) rfl ((wordXNN_masked_family ..).trans (by decide))
theorem drw (x y : RegNo) (n : Nat) : Statement (.drw x y n) :=
  of_row 22 (by decide) rfl ((wordXYD_masked_family ..).trans (by decide))
theorem skp (x : RegNo) : Statement (.skp x) :=
  of_row 23 (by decide) rfl ((wordXNN_masked_byte ..).trans (by decide))
theorem sknp (x : RegNo) : Statement (.sknp x) :=
  of_row 24 (by decide) rfl ((wordXNN_masked_byte ..).trans (by decide))
theorem ldVxDt (x : RegNo) : Statement (.ldVxDt x) :=
  of_row 25 (by decide) rfl ((wordXNN_masked_byte ..).trans (by decide))
theorem ldDtVx (x : RegNo) : Statement (.ldDtVx x) :=
  of_row 26 (by decide) rfl ((wordXNN_masked_byte ..).trans (by decide))
theorem ldStVx (x : RegNo) : Statement (.ldStVx x) :=
  of_row 27 (by decide) rfl ((wordXNN_masked_byte ..).trans (by decide))
theorem addIVx (x : RegNo) : Statement (.addIVx x) :=
  of_row 28 (by decide) rfl ((wordXNN_masked_byte ..).trans (by decide))
theorem ldFVx (x : RegNo) : Statement (.ldFVx x) :=
  of_row 29 (by decide) rfl ((wordXNN_masked_byte ..).trans (by decide))
theorem ldBVx (x : RegNo) : Statement (.ldBVx x) :=
  of_row 30 (by decide) rfl ((wordXNN_masked_byte ..).trans (by decide))
theorem ldMemVx (x : RegNo) : Statement (.ldMemVx x) :=
  of_row 31 (by decide) rfl ((wordXNN_masked_byte ..).trans (by decide))
theorem ldVxMem (x : RegNo) : Statement (.ldVxMem x) :=
  of_row 32 (by decide) rfl ((wordXNN_masked_byte ..).trans (by decide))

end Sys2Proof.Laws.MatchesRow
end

