-- ==== Sys2Proof/Tests/Slice0.lean ====
section
/-! SUPPORT. Tests: well-formedness smoke, words written out from spec/30_encoding.md R75, single steps whose expected results
are the spec's own vectors (spec/95_test_vectors.md, named at each test), and a witness that the hypotheses of each statement
can be met. -/

namespace Sys2Proof.Tests

open Sys2Proof.Machine

/-! ### Well-formed instructions -/

theorem test_wellFormed_refuses_sixteen_rows : Instr.wellFormed (.drw 0 1 16) = false := by decide

theorem test_wellFormed_admits_fifteen_rows : Instr.wellFormed (.drw 15 15 15) = true := by decide

/-! ### Decoding: words written out from R75, every constructor once, and the rejects of R78 -/

theorem test_decode_flow :
    decodeWord 0x00EE = .ok .ret ∧ decodeWord 0x1FFF = .ok (.jp 0xFFF) ∧ decodeWord 0x2ABC = .ok (.call 0xABC) ∧
    decodeWord 0x3A05 = .ok (.seVxNn 10 0x05) ∧ decodeWord 0x4A05 = .ok (.sneVxNn 10 0x05) ∧
    decodeWord 0x5120 = .ok (.seVxVy 1 2) ∧ decodeWord 0x9120 = .ok (.sneVxVy 1 2) ∧
    decodeWord 0xB300 = .ok (.jpV0Nnn 0x300) := by decide

theorem test_decode_alu :
    decodeWord 0x609D = .ok (.ldVxNn 0 0x9D) ∧ decodeWord 0x71FF = .ok (.addVxNn 1 0xFF) ∧
    decodeWord 0x8EF0 = .ok (.ldVxVy 14 15) ∧ decodeWord 0x8121 = .ok (.or 1 2) ∧ decodeWord 0x8122 = .ok (.and 1 2) ∧
    decodeWord 0x8123 = .ok (.xor 1 2) ∧ decodeWord 0x8124 = .ok (.addVxVy 1 2) ∧ decodeWord 0x8125 = .ok (.sub 1 2) ∧
    decodeWord 0x8126 = .ok (.shr 1 2) ∧ decodeWord 0x8127 = .ok (.subn 1 2) ∧ decodeWord 0x812E = .ok (.shl 1 2) ∧
    decodeWord 0xC10F = .ok (.rnd 1 0x0F) := by decide

theorem test_decode_memory :
    decodeWord 0xA300 = .ok (.ldINnn 0x300) ∧ decodeWord 0xF21E = .ok (.addIVx 2) ∧ decodeWord 0xF329 = .ok (.ldFVx 3) ∧
    decodeWord 0xF033 = .ok (.ldBVx 0) ∧ decodeWord 0xFF55 = .ok (.ldMemVx 15) ∧
    decodeWord 0xFF65 = .ok (.ldVxMem 15) := by decide

theorem test_decode_display_keys_timers :
    decodeWord 0x00E0 = .ok .cls ∧ decodeWord 0xD01F = .ok (.drw 0 1 15) ∧ decodeWord 0xE49E = .ok (.skp 4) ∧
    decodeWord 0xE4A1 = .ok (.sknp 4) ∧ decodeWord 0xF107 = .ok (.ldVxDt 1) ∧ decodeWord 0xF015 = .ok (.ldDtVx 0) ∧
    decodeWord 0xF218 = .ok (.ldStVx 2) := by decide

/-- The illegal words of B2.3 to B2.7, B1.21 and B1.24, each refused by its family's name; and one byte is no instruction. -/
theorem test_decode_rejects_by_name :
    decodeWord 0x0000 = .error .family0 ∧ decodeWord 0x00E1 = .error .family0 ∧ decodeWord 0x01E0 = .error .family0 ∧
    decodeWord 0x0123 = .error .family0 ∧ decodeWord 0x5121 = .error .family5 ∧ decodeWord 0x8108 = .error .family8 ∧
    decodeWord 0x810F = .error .family8 ∧ decodeWord 0x9121 = .error .family9 ∧ decodeWord 0xE49F = .error .familyE ∧
    decodeWord 0xF00A = .error .familyF ∧ decode [0x00] = .error .tooShort := by decide

/-- High byte first (R52), and what follows the instruction is left (R71). -/
theorem test_decode_byte_order : decode [0x6A, 0x55, 0x12] = .ok (.ldVxNn 10 0x55, [0x12]) := by decide

theorem test_decodeTableWord : decodeTableWord 16 0xD012 = some (.drw 0 1 2) ∧ decodeTableWord 16 0x5121 = none := by decide

/-! ### Single steps -/

/-- The reset state with bytes at 0x200. -/
def prog (bytes : List Byte) : State := State.reset.writeBytes 0x200 bytes

/-- The reset state about to run the word with these bytes at address `a`. -/
def at_ (a : Nat) (bytes : List Byte) : State := (State.reset.writeBytes a bytes).setPc (BitVec.ofNat 16 a)

/-- A step's next state, if there is one. -/
def next (s : State) : Option State :=
  match step s with
  | .next t => some t
  | .fault _ => none
  | .refused _ => none

/-- V1, VF and PC. -/
def v1vfPc (s : State) : Byte × Byte × Word := (s.getV 1, s.getV 15, s.pc)

/-- PC, SP, ERR. -/
def pcSpErr (s : State) : Word × Nat × BitVec 3 := (s.pc, s.sp.val, s.err)

/-- The reset state with a word at 0x200 and V1, V2, VF. -/
def alu (hi lo : Byte) (v1 v2 vF : Byte) : State := (((prog [hi, lo]).setV 1 v1).setV 2 v2).setV 15 vF

-- B1.1, B1.2, B1.3
theorem test_ret : (next (((at_ 0x210 [0x00, 0xEE]).setSp 16).setStk 15 0x456)).map pcSpErr = some (0x456, 15, 0) := by decide

theorem test_ret_underflow : (next (at_ 0x210 [0x00, 0xEE])).map pcSpErr = some (0x210, 0, 3) := by decide

-- B1.4
theorem test_jp : (next (at_ 0x20A [0x12, 0x04])).map pcSpErr = some (0x204, 0, 0) := by decide

-- B1.10, B1.9
theorem test_call : (next (at_ 0xFFE [0x2A, 0xBC])).map (fun t => (pcSpErr t, t.getStk 0)) =
    some ((0xABC, 1, 0), 0x1000) := by decide

theorem test_call_overflow : (next ((at_ 0x206 [0x23, 0x00]).setSp 16)).map (fun t => (pcSpErr t, t.getStk 15)) =
    some ((0x206, 16, 2), 0) := by decide

-- B1.12
theorem test_jpV0Nnn : (next ((prog [0xBF, 0xFF]).setV 0 0xFF)).map pcSpErr = some (0x10FE, 0, 0) := by decide

-- B1.13 to B1.24
theorem test_seVxNn : (next (at_ 0x208 [0x31, 0x00])).map pcSpErr = some (0x20C, 0, 0) ∧
    (next ((at_ 0x208 [0x31, 0x00]).setV 1 1)).map pcSpErr = some (0x20A, 0, 0) := by decide

theorem test_sneVxNn : (next ((at_ 0x300 [0x4A, 0x05]).setV 10 5)).map pcSpErr = some (0x302, 0, 0) ∧
    (next ((at_ 0x300 [0x4A, 0x05]).setV 10 6)).map pcSpErr = some (0x304, 0, 0) := by decide

theorem test_seVxVy : (next (alu 0x51 0x20 7 7 0)).map pcSpErr = some (0x204, 0, 0) ∧
    (next (alu 0x51 0x20 7 8 0)).map pcSpErr = some (0x202, 0, 0) := by decide

theorem test_sneVxVy : (next (alu 0x91 0x20 7 8 0)).map pcSpErr = some (0x204, 0, 0) ∧
    (next (alu 0x91 0x20 7 7 0)).map pcSpErr = some (0x202, 0, 0) := by decide

-- B1.21, B2.1, B2.8
theorem test_illegal_word : (next (alu 0x51 0x21 7 7 0)).map pcSpErr = some (0x200, 0, 1) := by decide

theorem test_fetch_bound : (next (State.reset.setPc 0xFFF)).map pcSpErr = some (0xFFF, 0, 4) := by decide

theorem test_halted : (next ((at_ 0x20A [0x12, 0x04]).setErr 2)).map pcSpErr = some (0x20A, 0, 2) := by decide

-- B3.1 to B3.9
theorem test_ldVxNn : (next (prog [0x60, 0x9D])).map (·.getV 0) = some 0x9D := by decide

theorem test_addVxNn : (next (alu 0x71 0xFF 5 0 0)).map v1vfPc = some (4, 0, 0x202) := by decide

theorem test_ldVxVy : (next (alu 0x8E 0xF0 0 0 1)).map (·.getV 14) = some 1 := by decide

theorem test_or : (next (alu 0x81 0x21 0x0F 0xF0 7)).map v1vfPc = some (0xFF, 7, 0x202) := by decide

theorem test_and : (next (alu 0x81 0x22 0x3C 0x0F 7)).map v1vfPc = some (0x0C, 7, 0x202) := by decide

theorem test_xor : (next (alu 0x81 0x23 0xFF 0x0F 7)).map v1vfPc = some (0xF0, 7, 0x202) := by decide

-- B3.10, B3.14
theorem test_addVxVy : (next (alu 0x81 0x24 0x80 0x80 0)).map v1vfPc = some (0, 1, 0x202) := by decide

theorem test_addVxVy_into_vf : (next (alu 0x8F 0x14 1 0 0xFF)).map v1vfPc = some (1, 0, 0x202) := by decide

-- B3.17, B3.21
theorem test_sub_equal : (next (alu 0x81 0x25 7 7 1)).map v1vfPc = some (0, 0, 0x202) := by decide

theorem test_sub_into_vf : (next (alu 0x8F 0x15 3 0 5)).map v1vfPc = some (3, 0xFE, 0x202) := by decide

-- B3.28, B3.31
theorem test_shr : (next (alu 0x81 0x26 4 0xFF 0)).map v1vfPc = some (2, 0, 0x202) := by decide

theorem test_shr_vf : (next (alu 0x8F 0x06 0 0 0xFF)).map v1vfPc = some (0, 0, 0x202) := by decide

-- B3.33, B3.38
theorem test_subn : (next (alu 0x81 0x27 5 3 0)).map v1vfPc = some (0xFE, 0, 0x202) := by decide

theorem test_subn_from_vf : (next (alu 0x81 0xF7 9 0 2)).map v1vfPc = some (0xF7, 0, 0x202) := by decide

-- B3.40, B3.45
theorem test_shl : (next (alu 0x81 0x0E 0x81 0 0)).map v1vfPc = some (2, 1, 0x202) := by decide

theorem test_shl_vf : (next (alu 0x8F 0xFE 0 0 0xFF)).map v1vfPc = some (0, 2, 0x202) := by decide

-- B3.46
theorem test_rnd : (next ((prog [0xC1, 0x0F]).setRnd (some 0xA7))).map v1vfPc = some (7, 0, 0x202) := by decide

/-- The same under the command STEP(0xA7), which puts the input back. -/
theorem test_rnd_command :
    (match command (.step 0xA7) (prog [0xC1, 0x0F]) with
      | .next t => some (v1vfPc t, t.rnd)
      | .fault _ => none
      | .refused _ => none) = some ((7, 0, 0x202), none) := by decide

-- B4.1
theorem test_ldINnn : (next ((prog [0xA3, 0x00]).setI 0xFFFF)).map (·.i) = some 0x300 := by decide

-- B4.3, B4.5
theorem test_addIVx : (next (((prog [0xF0, 0x1E]).setI 0xFFF).setV 0 1)).map (fun t => (t.i, t.getV 15, t.err)) =
    some (0x1000, 0, 0) := by decide

theorem test_addIVx_overflow : (next (((prog [0xF0, 0x1E]).setI 0xFF01).setV 0 0xFF)).map (fun t => (t.i, t.pc, t.err)) =
    some (0xFF01, 0x200, 4) := by decide

-- B4.10
theorem test_ldFVx : (next ((prog [0xF0, 0x29]).setV 0 0xFF)).map (·.i) = some 0x4FB := by decide

-- S8, B4.13
theorem test_ldBVx : (next (((prog [0xF0, 0x33]).setI 0x300).setV 0 157)).map (·.readBytes 0x300 4) =
    some [1, 5, 7, 0] := by decide

theorem test_ldBVx_bound :
    (next ((((prog [0xF0, 0x33]).writeBytes 0xFFE [9, 9]).setI 0xFFE).setV 0 7)).map
      (fun t => (t.readBytes 0xFFE 2, t.pc, t.err)) = some ([9, 9], 0x200, 4) := by decide

-- B4.14, B4.15
theorem test_ldMemVx : (next (((((alu 0xF2 0x55 2 3 0).setV 0 1).setV 3 4).setI 0x400))).map
    (fun t => (t.readBytes 0x400 4, t.i)) = some ([1, 2, 3, 0], 0x400) := by decide

theorem test_ldMemVx_bound : (next (((prog [0xFF, 0x55]).setI 0xFF8).setV 0 1)).map
    (fun t => (t.readByte 0xFF8, t.pc, t.err)) = some (0, 0x200, 4) := by decide

-- B4.17, B4.20
theorem test_ldVxMem : (next (((prog [0xF2, 0x65]).writeBytes 0x300 [1, 5, 7, 9]).setI 0x300)).map
    (fun t => (t.firstRegs 4, t.i)) = some ([1, 5, 7, 0], 0x300) := by decide

theorem test_ldVxMem_bound : (next ((prog [0xF1, 0x65]).setI 0xFFF)).map (fun t => (t.pc, t.err)) =
    some (0x200, 4) := by decide

-- B5.1
theorem test_cls : (next ((((prog [0x00, 0xE0]).togglePixel 5).togglePixel 2047).setV 15 1)).map
    (fun t => (t.pixel 5, t.pixel 2047, v1vfPc t)) = some (false, false, 0, 1, 0x202) := by decide

-- B5.3, B5.5
theorem test_drw_wraps :
    (next ((((prog [0xD0, 0x11]).writeBytes 0x300 [0xFF]).setI 0x300).setV 0 63)).map
      (fun t => ([0, 6, 7, 62, 63, 64].map t.pixel, v1vfPc t)) =
    some ([true, true, false, false, true, false], 0, 0, 0x202) := by decide

theorem test_drw_collides :
    (next ((((prog [0xD0, 0x11]).writeBytes 0x300 [0xC0]).setI 0x300).togglePixel 1)).map
      (fun t => ([0, 1, 2].map t.pixel, v1vfPc t)) = some ([true, false, false], 0, 1, 0x202) := by decide

-- B6.1 to B6.6
theorem test_skp :
    (next (setKeyCommand 7 true ((at_ 0x220 [0xE4, 0x9E]).setV 4 7))).map pcSpErr = some (0x224, 0, 0) ∧
    (next ((at_ 0x220 [0xE4, 0x9E]).setV 4 7)).map pcSpErr = some (0x222, 0, 0) := by decide

theorem test_skp_no_key : (next ((at_ 0x220 [0xE4, 0x9E]).setV 4 0x10)).map pcSpErr = some (0x220, 0, 4) := by decide

theorem test_sknp :
    (next ((at_ 0x220 [0xE4, 0xA1]).setV 4 7)).map pcSpErr = some (0x224, 0, 0) ∧
    (next (setKeyCommand 7 true ((at_ 0x220 [0xE4, 0xA1]).setV 4 7))).map pcSpErr = some (0x222, 0, 0) := by decide

theorem test_sknp_no_key : (next ((at_ 0x220 [0xE4, 0xA1]).setV 4 0xFF)).map pcSpErr = some (0x220, 0, 4) := by decide

-- B6.7, B6.8, B6.9
theorem test_ldVxDt : (next ((prog [0xF1, 0x07]).setDt 0x3C)).map (fun t => (t.getV 1, t.dt)) = some (0x3C, 0x3C) := by decide

theorem test_ldDtVx : (next ((prog [0xF0, 0x15]).setV 0 3)).map (·.dt) = some 3 := by decide

theorem test_ldStVx : (next (alu 0xF2 0x18 0 0x0A 0)).map (fun t => (t.st, t.sound)) = some (0x0A, true) := by decide

-- B6.11, B7.1, B7.3
theorem test_tick_while_halted :
    (fun t : State => (t.dt, t.st, t.sound, t.err)) (tickCommand (((State.reset.setErr 2).setDt 5).setSt 1)) =
      (4, 0, false, 2) := by decide

theorem test_reset_command :
    (fun t : State => (pcSpErr t, t.getV 3, t.readBytes 0x300 1, t.key[2]))
      (resetCommand (setKeyCommand 2 true ((((prog [0xAA]).writeBytes 0x300 [0x12]).setErr 2).setV 3 9))) =
      ((0x200, 0, 0), 0, [0], true) := by decide

/-- R164: from the machine with no program, the first step faults and RESET clears ERR; the end is without a fault, the run is
not safe. -/
theorem test_safeRun_refuted_by_fault_before_reset :
    (∃ t, run [.step 0, .reset] State.reset = .next t ∧ NoFault t) ∧ ¬ SafeRun [.step 0, .reset] State.reset :=
  ⟨⟨_, rfl, rfl⟩, not_safeRun_of_fault (cs := [.step 0]) (t := State.reset.setErr 1) (by rfl) (by decide)⟩

/-- Program P6's first instruction, loaded and run, is a safe run. -/
theorem test_safeRun_of_program : SafeRun [.load [0x60, 0x07], .step 0, .tick] State.reset :=
  ⟨rfl, _, rfl, rfl, _, rfl, rfl, _, rfl, rfl⟩

theorem test_load_keeps_the_rest : (prog [0x12, 0x00]).writeBytes 0x200 [0xAA] = prog [0xAA, 0x00] := by decide

/-- The host's fetch slot: the word runs as the first instruction after reset. -/
theorem test_withFetchWord : (next (State.reset.withFetchWord 16 0x609D)).map (·.getV 0) = some 0x9D := by decide

/-! ### Witnesses: the hypotheses of each statement can be met, at the ends of their ranges -/

theorem witness_DecodeEncodeAgree : WellFormed (.drw 15 15 15) := by decide

theorem witness_EncodeDecodeAgree : decodeWord 0xFF65 = .ok (.ldVxMem 15) := by decide

/-- The last place an instruction can stand (B2.2). -/
theorem witness_StepRunsDecodedInstruction :
    let s := at_ 0xFFE [0x60, 0x9D]
    s.err = 0 ∧ s.pc.toNat = 0xFFE ∧
      decodeWord (wordOfBytes (s.readByte s.pc.toNat) (s.readByte (s.pc.toNat + 1))) = .ok (.ldVxNn 0 0x9D) := by decide

theorem witness_StepChecksInOrder :
    (State.reset.setErr 1).err ≠ 0 ∧
    ((State.reset.setPc 0xFFF).err = 0 ∧ 0xFFE < (State.reset.setPc 0xFFF).pc.toNat) ∧
    let s := State.reset.setPc 0xFFE
    s.err = 0 ∧ s.pc.toNat ≤ 0xFFE ∧
      decodeWord (wordOfBytes (s.readByte s.pc.toNat) (s.readByte (s.pc.toNat + 1))) = .error .family0 := by decide

theorem witness_FaultEntryIsPrecise : State.reset.err = 0 ∧ ∃ t, step State.reset = .next t ∧ t.err ≠ 0 :=
  ⟨rfl, _, rfl, by decide⟩

theorem witness_OnlyNamedInstructionsFault :
    (∃ t, exec (.jp 0x204) State.reset = .next t ∧ t.err = State.reset.err) ∧
    ∃ t, exec .ret State.reset = .next t ∧ t.err = Fault.code .stackUnderflow :=
  ⟨⟨_, rfl, rfl⟩, ⟨_, rfl, rfl⟩⟩

theorem witness_HaltedUntilReset :
    let cs : List Command := [.load [0x12, 0x00], .step 0, .tick, .setKey 7 true]
    (State.reset.setErr 1).err ≠ 0 ∧ (∀ c ∈ cs, c ≠ .reset) ∧ ∃ t, run cs (State.reset.setErr 1) = .next t :=
  ⟨by decide, by decide, _, rfl⟩

/-- An instruction that stores, at the last place it can (B4.16), and one that stores nothing. -/
theorem witness_EveryInstructionKeepsItsFrame :
    (∃ t, exec (.ldMemVx 15) (State.reset.setI 0xFF0) = .next t ∧ t.err = (State.reset.setI 0xFF0).err) ∧
    ∃ t, exec (.ldVxNn 0 1) State.reset = .next t ∧ t.err = State.reset.err :=
  ⟨⟨_, rfl, rfl⟩, ⟨_, rfl, rfl⟩⟩

/-- A fault, a fall-through, a skip, a jump, a call, an offset jump and a return. -/
theorem witness_PcAfterEachInstruction :
    State.reset.err = 0 ∧ (∃ t, exec .ret State.reset = .next t ∧ t.err ≠ 0) ∧
    (∃ t, exec .cls State.reset = .next t ∧ t.err = 0 ∧ pcKind .cls = .fallThrough) ∧
    (∃ t, exec (.skp 0) State.reset = .next t ∧ t.err = 0 ∧ pcKind (.skp 0) = .skip) ∧
    (∃ t, exec (.jp 0xFFF) State.reset = .next t ∧ t.err = 0 ∧ pcKind (.jp 0xFFF) = .transfer) ∧
    (∃ t, exec (.call 0xFFF) State.reset = .next t ∧ t.err = 0 ∧ pcKind (.call 0xFFF) = .transfer) ∧
    (∃ t, exec (.jpV0Nnn 0xFFF) State.reset = .next t ∧ t.err = 0 ∧ pcKind (.jpV0Nnn 0xFFF) = .transfer) ∧
    ∃ t, exec .ret (State.reset.setSp 16) = .next t ∧ t.err = 0 ∧ (15 : Fin 16).val + 1 = (State.reset.setSp 16).sp.val :=
  ⟨rfl, ⟨_, rfl, by decide⟩, ⟨_, rfl, rfl, rfl⟩, ⟨_, rfl, rfl, rfl⟩, ⟨_, rfl, rfl, rfl⟩, ⟨_, rfl, rfl, rfl⟩,
    ⟨_, rfl, rfl, rfl⟩, ⟨_, rfl, rfl, rfl⟩⟩

/-- A subtraction, and DXYN with VF as both coordinates, of no row and of one row at the last address. -/
theorem witness_FlagsAreZeroOrOne :
    NoFault State.reset ∧ NoFault (State.reset.setI 0xFFF) ∧ (14 : RegNo) ≠ vf ∧
    (∃ t, exec (.sub 14 15) State.reset = .next t ∧ NoFault t) ∧
    (∃ t, exec (.drw 15 15 0) State.reset = .next t ∧ NoFault t) ∧
    ∃ t, exec (.drw 15 15 1) (State.reset.setI 0xFFF) = .next t ∧ NoFault t :=
  ⟨rfl, rfl, by decide, ⟨_, rfl, rfl⟩, ⟨_, rfl, rfl⟩, ⟨_, rfl, by decide⟩⟩

theorem witness_KeysReadOnlyByKeySkips :
    (∀ x, Instr.ldVxNn 0 1 ≠ .skp x ∧ Instr.ldVxNn 0 1 ≠ .sknp x) ∧ ∃ t, exec (.ldVxNn 0 1) State.reset = .next t :=
  ⟨fun _ => ⟨nofun, nofun⟩, _, rfl⟩

theorem witness_RandomInputReadOnlyByRnd :
    (∀ x nn, Instr.skp 0 ≠ .rnd x nn) ∧ ∃ t, exec (.skp 0) State.reset = .next t :=
  ⟨fun _ _ => nofun, _, rfl⟩

/-- Both cases of the clauses on `x`, used by AddRegistersResult, SubtractResults, ShiftResults and VfOperandTable. -/
theorem witness_VfOperandTable : (14 : RegNo) ≠ vf ∧ (0 : RegNo) ≠ vf ∧ (15 : RegNo) = vf := by decide

/-- A jump to its own address, and one to the last address. -/
theorem witness_JumpResult : (0x200 : BitVec 12).toNat = State.reset.pc.toNat ∧ State.reset.err = 0 := by decide

/-- B1.15 for SE_VX_NN, and its counterpart for SNE_VX_NN. -/
theorem witness_SkipImmediateResults :
    let s := State.reset.setPc 0xFFC
    s.err = 0 ∧ s.pc = 0xFFC ∧ s.getV 0 = 0 ∧ s.getV 0 ≠ 1 := by decide

/-- B1.12, and the nearest target that faults. -/
theorem witness_JumpOffsetResult :
    State.reset.err = 0 ∧ 0xFFE < (0xFFF : BitVec 12).toNat + ((State.reset.setV 0 0xFF).getV 0).toNat ∧
      0xFFE < (0xFFF : BitVec 12).toNat + (State.reset.getV 0).toNat := by decide

/-- B3.46 at the last place an instruction can stand. -/
theorem witness_RandomByteIsMasked :
    let s := at_ 0xFFE [0xC1, 0x0F]
    s.err = 0 ∧ s.pc.toNat = 0xFFE ∧
      wordOfBytes (s.readByte s.pc.toNat) (s.readByte (s.pc.toNat + 1)) = wordXNN 0xC 1 0x0F := by decide

theorem witness_CallResult :
    (State.reset.setSp 15).sp.val < 16 ∧ State.reset.sp.val < 16 ∧ (State.reset.setSp 16).sp.val = 16 := by decide

theorem witness_ReturnResult :
    (State.reset.setSp 16).sp.val = (15 : Fin 16).val + 1 ∧ (State.reset.setSp 1).sp.val = (0 : Fin 16).val + 1 ∧
      State.reset.sp.val = 0 := by decide

theorem witness_CallThenReturn :
    (State.reset.setSp 15).sp.val < 16 ∧ ∃ t, exec (.call 0xABC) (State.reset.setSp 15) = .next t ∧
      (∀ k, (t.setI 7).getStk k = t.getStk k) ∧ (t.setI 7).sp = t.sp :=
  ⟨by decide, _, rfl, fun _ => rfl, rfl⟩

theorem witness_SkipRegisterResults : (1 : BitVec 4) ≠ 0 ∧ (15 : BitVec 4) ≠ 0 := by decide

/-- B4.4 and B4.5. -/
theorem witness_AddIndexResult :
    let s := (State.reset.setI 0xFF00).setV 0 0xFF
    let u := (State.reset.setI 0xFF01).setV 0 0xFF
    s.i.toNat + (s.getV 0).toNat = 0xFFFF ∧ 0xFFFF < u.i.toNat + (u.getV 0).toNat := by decide

theorem witness_StoreDecimalResult :
    (State.reset.setI 0xFFD).i.toNat + 2 = 0xFFF ∧ 0xFFF < (State.reset.setI 0xFFE).i.toNat + 2 := by decide

/-- For StoreRegistersResult and LoadRegistersResult. -/
theorem witness_StoreRegistersResult :
    (State.reset.setI 0xFF0).i.toNat + (15 : RegNo).val = 0xFFF ∧ (State.reset.setI 0xFFF).i.toNat + (0 : RegNo).val = 0xFFF ∧
      0xFFF < (State.reset.setI 0xFF1).i.toNat + (15 : RegNo).val := by decide

theorem witness_StoreThenLoadRestoresRegisters :
    (State.reset.setI 0xFF0).i.toNat + (15 : RegNo).val ≤ 0xFFF ∧
      ∃ t, exec (.ldMemVx 15) (State.reset.setI 0xFF0) = .next t ∧ (t.setV 0 7).i = t.i ∧
        ∀ a, (t.setV 0 7).readByte a = t.readByte a :=
  ⟨by decide, _, rfl, rfl, fun _ => rfl⟩

/-- B2.10, at its step 4: F155 at 0x206 stores 12 08 at 0x208. -/
theorem witness_StoredBytesAreFetched :
    let s := ((((prog [0x60, 0x12, 0x61, 0x08, 0xA2, 0x08, 0xF1, 0x55]).setV 0 0x12).setV 1 0x08).setI 0x208).setPc 0x206
    s.err = 0 ∧ s.i.toNat + (1 : RegNo).val ≤ 0xFFF ∧ (0 : RegNo) < 1 ∧ (s.pc + 2).toNat = s.dataAddr (0 : RegNo).val ∧
      (∃ t, exec (.ldMemVx 1) s = .next t) ∧ decodeWord (wordOfBytes (s.getV 0) (s.getV (0 + 1))) = .ok (.jp 0x208) :=
  ⟨by decide, by decide, by decide, by decide, ⟨_, rfl⟩, by decide⟩

/-- B5.7, B5.9 and B5.8. -/
theorem witness_DrawResult :
    (0 = 0 ∨ (State.reset.setI 0xFFFF).i.toNat + 0 - 1 ≤ 0xFFF) ∧ (State.reset.setI 0xFFF).i.toNat + 1 - 1 ≤ 0xFFF ∧
      (2 ≠ 0 ∧ 0xFFF < (State.reset.setI 0xFFF).i.toNat + 2 - 1) := by decide

theorem witness_DrawTwiceRestoresFrame :
    let s := State.reset.setI 0xFFF
    (0 : RegNo) ≠ vf ∧ (1 : RegNo) ≠ vf ∧ ∃ t u, exec (.drw 0 1 1) s = .next t ∧ exec (.drw 0 1 1) t = .next u ∧
      t.err = s.err ∧ u.err = t.err :=
  ⟨by decide, by decide, _, _, rfl, rfl, by decide, by decide⟩

theorem witness_KeySkipResults :
    (State.reset.getV 0).toNat = (0 : Fin 16).val ∧ ((State.reset.setV 0 15).getV 0).toNat = (15 : Fin 16).val ∧
      15 < ((State.reset.setV 0 16).getV 0).toNat := by decide

/-- The ends of the two address ranges, which do not meet. -/
theorem witness_ResetCommandResult : 0x4F ≤ 0x4F ∧ (0x50 ≤ 0x50 ∧ 0x50 ≤ 0xFFF) ∧ (0x50 ≤ 0xFFF ∧ 0xFFF ≤ 0xFFF) := by decide

/-- The last pixel, and the ends of the zeroed addresses. -/
theorem witness_OutputsFollowState_ResetStateValues :
    (63 < 64 ∧ 31 < 32) ∧ (0x50 ≤ 0x50 ∧ 0x50 ≤ 0xFFF) ∧ (0x50 ≤ 0xFFF ∧ 0xFFF ≤ 0xFFF) := by decide

/-- For LoadCommandResult and ResetThenLoadBoots: a program that fills memory (B7.4). -/
theorem witness_LoadCommandResult : (List.replicate 3584 (7 : Byte)).length ≤ 3584 := (List.length_replicate ..).le

/-- B7.5. -/
theorem witness_LongLoadIsRefused : 3584 < (List.replicate 3585 (7 : Byte)).length := by
  rw [List.length_replicate]; decide

/-- B1.5: a jump to itself at 0x200. -/
theorem witness_AtRestStaysAtRest : AtRest (prog [0x12, 0x00]) :=
  ⟨rfl, by decide, 0x200, [], by decide, by decide⟩

theorem witness_StepKeepsInvariant : RunInv State.reset ∧ ∃ t, step State.reset = .next t :=
  ⟨⟨State.reset_memory_wf, by decide, by decide, by decide⟩, _, rfl⟩

theorem witness_ReachableStatesHaveInvariant :
    RunInv State.reset ∧ Reachable State.reset ∧ ∃ t, command (.load [0x12, 0x00]) State.reset = .next t :=
  ⟨witness_StepKeepsInvariant.1, .reset, _, rfl⟩

end Sys2Proof.Tests
end

section
/-! PROOFS. The statements of spec/10_state.md: what a completed instruction leaves in PC, in memory and on the stack, the
invariant `RunInv` of every run, the flags in VF, and the inputs only their readers see. -/

namespace Sys2Proof.Machine

variable {s t : State} {i : Instr} {e : Fault}

/-! ### Faults -/

theorem Fault.code_ne_zero (e : Fault) : e.code ≠ 0 := by
  cases e <;> decide

theorem Fault.code_le (e : Fault) : e.code.toNat ≤ 4 := by
  cases e <;> decide

theorem err_ne_zero_of_raise (h : raise e s = .next t) : t.err ≠ 0 := by
  cases h; exact e.code_ne_zero

/-- An instruction that answers `t` has recorded its fault there, or has kept ERR and its frame (R162, R163, R65). -/
theorem exec_next_cases (h : exec i s = .next t) :
    (∃ e : Fault, t = s.setErr e.code) ∨ (t.err = s.err ∧ Frame (writtenParts i) s t) := by
  obtain ⟨e, -, hr⟩ | ⟨u, hu, herr, hframe, -⟩ := exec_cases (s := s) i
  · rw [hr] at h; cases h; exact .inl ⟨e, rfl⟩
  · rw [hu] at h; cases h; exact .inr ⟨herr, hframe⟩

/-! ### Without a fault: the state each instruction that can fault leaves otherwise -/

/-- Of an outcome that is `.next` under the condition `c` and a fault otherwise, only the first leaves ERR at 0. -/
theorem eq_of_noFault {c : Prop} {o : Host.Outcome State Fault Refusal} {u : c → State}
    (hin : ∀ hc, o = .next (u hc)) (hout : ¬ c → o = raise e s) (h : o = .next t) (ht : NoFault t) :
    ∃ hc, t = u hc := by
  by_cases hc : c
  · exact ⟨hc, (Host.Outcome.next.inj ((hin hc).symm.trans h)).symm⟩
  · exact absurd ht (err_ne_zero_of_raise ((hout hc).symm.trans h))

theorem State.sp_cases (s : State) : s.sp.val = 0 ∨ ∃ k : Fin 16, s.sp.val = k.val + 1 := by
  obtain h | ⟨k, h⟩ := Fin.eq_zero_or_eq_succ s.sp <;> rw [h]
  · exact .inl rfl
  · exact .inr ⟨k, rfl⟩

theorem ret_of_noFault (h : exec .ret s = .next t) (ht : NoFault t) :
    ∃ k : Fin 16, s.sp.val = k.val + 1 ∧
      t = (s.advance.setSp ⟨k.val, Nat.lt_succ_of_lt k.isLt⟩).setPc (s.getStk k) := by
  obtain h0 | ⟨k, hk⟩ := s.sp_cases
  · rw [exec_ret_empty s h0] at h
    exact absurd ht (err_ne_zero_of_raise h)
  · rw [exec_ret_of_succ s k hk] at h
    cases h; exact ⟨k, hk, rfl⟩

theorem call_of_noFault {nnn : BitVec 12} (h : exec (.call nnn) s = .next t) (ht : NoFault t) :
    ∃ hsp : s.sp.val < 16, t = ((s.advance.setStk ⟨s.sp.val, hsp⟩ (s.pc + 2)).setSp
      ⟨s.sp.val + 1, Nat.succ_lt_succ hsp⟩).setPc (immAddr nnn) :=
  eq_of_noFault (exec_call_of_lt s nnn) (fun hsp => exec_call_full s nnn (by have := s.sp.isLt; omega)) h ht

theorem addIVx_of_noFault {x : RegNo} (h : exec (.addIVx x) s = .next t) (ht : NoFault t) :
    s.i.toNat + (s.getV x).toNat ≤ 0xFFFF ∧
      t = s.advance.setI (BitVec.ofNat 16 (s.i.toNat + (s.getV x).toNat)) :=
  exists_prop.1 (eq_of_noFault (exec_addIVx_of_le s x) (fun hle => exec_addIVx_of_gt s x (by omega)) h ht)

theorem ldBVx_of_noFault {x : RegNo} (h : exec (.ldBVx x) s = .next t) (ht : NoFault t) :
    s.accessInBounds 3 = true ∧ t = s.advance.writeBytes (s.dataAddr 0) (decimalDigits (s.getV x)) :=
  exists_prop.1 (eq_of_noFault (exec_ldBVx_of_in s x) (exec_ldBVx_of_out s x) h ht)

theorem ldMemVx_of_noFault {x : RegNo} (h : exec (.ldMemVx x) s = .next t) (ht : NoFault t) :
    s.accessInBounds (x.val + 1) = true ∧
      t = s.advance.writeBytes (s.dataAddr 0) (s.firstRegs (x.val + 1)) :=
  exists_prop.1 (eq_of_noFault (exec_ldMemVx_of_in s x) (exec_ldMemVx_of_out s x) h ht)

theorem ldVxMem_of_noFault {x : RegNo} (h : exec (.ldVxMem x) s = .next t) (ht : NoFault t) :
    s.accessInBounds (x.val + 1) = true ∧
      t = s.advance.loadRegs (s.readBytes (s.dataAddr 0) (x.val + 1)) :=
  exists_prop.1 (eq_of_noFault (exec_ldVxMem_of_in s x) (exec_ldVxMem_of_out s x) h ht)

theorem drw_of_noFault {x y : RegNo} {n : Nat} (h : exec (.drw x y n) s = .next t) (ht : NoFault t) :
    s.accessInBounds n = true ∧
      t = (drawnPixels s x y n).foldl State.drawPixel (s.advance.setFlag (flagByte false)) :=
  exists_prop.1 (eq_of_noFault (exec_drw_of_in s x y n) (exec_drw_of_out s x y n) h ht)

theorem skp_of_noFault {x : RegNo} (h : exec (.skp x) s = .next t) (ht : NoFault t) :
    ∃ hx : (s.getV x).toNat < 16, t = s.advance.skipIf s.key[(s.getV x).toNat] :=
  eq_of_noFault (fun hx => exec_skp_of_key s x ⟨_, hx⟩ rfl) (fun hx => exec_skp_of_out s x (by omega)) h ht

theorem sknp_of_noFault {x : RegNo} (h : exec (.sknp x) s = .next t) (ht : NoFault t) :
    ∃ hx : (s.getV x).toNat < 16, t = s.advance.skipIf (!s.key[(s.getV x).toNat]) :=
  eq_of_noFault (fun hx => exec_sknp_of_key s x ⟨_, hx⟩ rfl) (fun hx => exec_sknp_of_out s x (by omega)) h ht

/-! ### PC (R28) -/

theorem pc_of_fallThrough (hk : pcKind i = .fallThrough) (h : exec i s = .next t) (ht : NoFault t) :
    t.pc = s.pc + 2 := by
  cases i with
  | addIVx x => obtain ⟨-, rfl⟩ := addIVx_of_noFault h ht; rfl
  | ldBVx x => obtain ⟨-, rfl⟩ := ldBVx_of_noFault h ht; rfl
  | ldMemVx x => obtain ⟨-, rfl⟩ := ldMemVx_of_noFault h ht; rfl
  | ldVxMem x => obtain ⟨-, rfl⟩ := ldVxMem_of_noFault h ht; rfl
  | drw x y n => obtain ⟨-, rfl⟩ := drw_of_noFault h ht; simp
  | _ => cases hk <;> cases h <;> rfl

theorem State.pc_skipIf_advance_cases (s : State) (c : Bool) :
    (s.advance.skipIf c).pc = s.pc + 2 ∨ (s.advance.skipIf c).pc = s.pc + 4 := by
  rw [pc_skipIf_advance]
  cases c
  · exact .inl rfl
  · exact .inr rfl

theorem pc_of_skip (hk : pcKind i = .skip) (h : exec i s = .next t) (ht : NoFault t) :
    t.pc = s.pc + 2 ∨ t.pc = s.pc + 4 := by
  cases i with
  | skp x => obtain ⟨-, rfl⟩ := skp_of_noFault h ht; exact s.pc_skipIf_advance_cases _
  | sknp x => obtain ⟨-, rfl⟩ := sknp_of_noFault h ht; exact s.pc_skipIf_advance_cases _
  | _ => cases hk <;> cases h <;> exact s.pc_skipIf_advance_cases _

theorem immAddr_toNat (nnn : BitVec 12) : (immAddr nnn).toNat = nnn.toNat := by
  unfold immAddr; bv_omega

theorem offsetTarget_toNat (nnn : BitVec 12) (v0 : Byte) :
    (offsetTarget nnn v0).toNat = nnn.toNat + v0.toNat := by
  unfold offsetTarget; bv_omega

theorem pc_of_jp {nnn : BitVec 12} (h : exec (.jp nnn) s = .next t) : t.pc.toNat = nnn.toNat := by
  cases h; exact immAddr_toNat nnn

theorem pc_of_call {nnn : BitVec 12} (h : exec (.call nnn) s = .next t) (ht : NoFault t) :
    t.pc.toNat = nnn.toNat := by
  obtain ⟨hsp, rfl⟩ := call_of_noFault h ht
  exact immAddr_toNat nnn

theorem pc_of_jpV0Nnn {nnn : BitVec 12} (h : exec (.jpV0Nnn nnn) s = .next t) :
    t.pc.toNat = nnn.toNat + (s.getV 0).toNat := by
  cases h; exact offsetTarget_toNat nnn (s.getV 0)

theorem pc_of_ret (h : exec .ret s = .next t) (ht : NoFault t) :
    ∃ k : Fin 16, s.sp.val = k.val + 1 ∧ t.pc = s.getStk k := by
  obtain ⟨k, hk, rfl⟩ := ret_of_noFault h ht
  exact ⟨k, hk, rfl⟩

/-- Settles O13: one lemma per way of R28, and one per transfer. -/
theorem pcAfterEachInstruction : Obligations.PcAfterEachInstruction := by
  intro i s t hs h
  refine ⟨fun hf => ?_, fun ht => ?_⟩
  · obtain ⟨e, rfl⟩ | ⟨herr, -⟩ := exec_next_cases h
    · rfl
    · exact absurd (herr.trans hs) hf
  · cases hk : pcKind i with
    | fallThrough => exact pc_of_fallThrough hk h ht
    | skip => exact pc_of_skip hk h ht
    | transfer =>
      refine ⟨?_, ?_, ?_⟩
      · rintro nnn (rfl | rfl)
        · exact pc_of_jp h
        · exact pc_of_call h ht
      · rintro nnn rfl
        exact pc_of_jpV0Nnn h
      · rintro rfl k hk
        obtain ⟨j, hj, hpc⟩ := pc_of_ret h ht
        obtain rfl : j = k := Fin.ext (by omega)
        exact hpc

/-! ### The invariant of every run (R29, R31, R36) -/

/-- From an address that can be fetched, an instruction that records no fault leaves PC at most 0x10FE (R29). -/
theorem pc_le_of_noFault (hpc : s.pc.toNat ≤ 0xFFE) (hstk : ∀ k, (s.getStk k).toNat ≤ 0x1000)
    (h : exec i s = .next t) (ht : NoFault t) : t.pc.toNat ≤ 0x10FE := by
  cases hk : pcKind i with
  | fallThrough => rw [pc_of_fallThrough hk h ht]; bv_omega
  | skip => obtain hp | hp := pc_of_skip hk h ht <;> rw [hp] <;> bv_omega
  | transfer =>
    cases i with
    | jp nnn => have := pc_of_jp h; omega
    | call nnn => have := pc_of_call h ht; omega
    | jpV0Nnn nnn => have := pc_of_jpV0Nnn h; omega
    | ret =>
      obtain ⟨k, -, hp⟩ := pc_of_ret h ht
      exact hp ▸ (hstk k).trans (by decide)
    | _ => cases hk

/-- Only CALL writes the stack, and what it writes is the address after its own (R30, R102). -/
theorem getStk_of_noFault (h : exec i s = .next t) (ht : NoFault t) (k : Fin 16) :
    t.getStk k = s.getStk k ∨ t.getStk k = s.pc + 2 := by
  by_cases hi : Part.stk ∈ writtenParts i
  · cases i with
    | call nnn =>
      obtain ⟨hsp, rfl⟩ := call_of_noFault h ht
      simp only [State.getStk_setPc, State.getStk_setSp, State.getStk_setStk, State.getStk_advance]
      split
      · exact .inr rfl
      · exact .inl rfl
    | _ => simp [writtenParts] at hi
  · obtain ⟨e, rfl⟩ | ⟨-, hframe⟩ := exec_next_cases h
    · exact .inl rfl
    · exact .inl (hframe _ hi k)

/-- An instruction changes the cells of memory by a run of written bytes, empty for all but the two stores (R53). -/
theorem mem_of_noFault (h : exec i s = .next t) (ht : NoFault t) :
    ∃ a bs, t.mem = Memory.writeBytes s.font s.mem a bs := by
  cases i with
  | ldBVx x => obtain ⟨-, rfl⟩ := ldBVx_of_noFault h ht; exact ⟨_, _, rfl⟩
  | ldMemVx x => obtain ⟨-, rfl⟩ := ldMemVx_of_noFault h ht; exact ⟨_, _, rfl⟩
  | ret => obtain ⟨k, -, rfl⟩ := ret_of_noFault h ht; exact ⟨0, [], rfl⟩
  | call nnn => obtain ⟨hsp, rfl⟩ := call_of_noFault h ht; exact ⟨0, [], rfl⟩
  | addIVx x => obtain ⟨-, rfl⟩ := addIVx_of_noFault h ht; exact ⟨0, [], rfl⟩
  | ldVxMem x => obtain ⟨-, rfl⟩ := ldVxMem_of_noFault h ht; exact ⟨0, [], rfl⟩
  | drw x y n => obtain ⟨-, rfl⟩ := drw_of_noFault h ht; exact ⟨0, [], State.draw_mem ..⟩
  | skp x => obtain ⟨-, rfl⟩ := skp_of_noFault h ht; exact ⟨0, [], State.skipIf_mem ..⟩
  | sknp x => obtain ⟨-, rfl⟩ := sknp_of_noFault h ht; exact ⟨0, [], State.skipIf_mem ..⟩
  | seVxNn | sneVxNn | seVxVy | sneVxVy => cases h; exact ⟨0, [], State.skipIf_mem ..⟩
  | _ => cases h; exact ⟨0, [], rfl⟩

/-- Recording a fault keeps the invariant: ERR is then one of the codes 1 to 4. -/
theorem RunInv.of_raise (hs : RunInv s) (h : raise e s = .next t) : RunInv t := by
  cases h
  exact ⟨hs.memory, hs.counter, hs.entries, e.code_le⟩

theorem RunInv.setRnd (hs : RunInv s) (r : Option Byte) : RunInv (s.setRnd r) :=
  ⟨hs.memory, hs.counter, hs.entries, hs.fault⟩

theorem font_of_exec (h : exec i s = .next t) : t.font = s.font := by
  obtain ⟨e, rfl⟩ | ⟨-, hframe⟩ := exec_next_cases h
  · rfl
  · exact hframe .font (by cases i <;> simp [writtenParts])

/-- An instruction at an address that can be fetched keeps the invariant. -/
theorem RunInv.of_exec (hs : RunInv s) (herr : s.err = 0) (hpc : s.pc.toNat ≤ 0xFFE) (h : exec i s = .next t) :
    RunInv t := by
  obtain ⟨e, rfl⟩ | ⟨ht, -⟩ := exec_next_cases h
  · exact hs.of_raise rfl
  · rw [herr] at ht
    refine ⟨?_, pc_le_of_noFault hpc hs.entries h ht, fun k => ?_, by rw [ht]; decide⟩
    · obtain ⟨a, bs, hm⟩ := mem_of_noFault h ht
      rw [hm, font_of_exec h]
      exact Memory.wf_writeBytes hs.memory
    · obtain hk | hk := getStk_of_noFault h ht k
      · exact hk ▸ hs.entries k
      · rw [hk]; bv_omega

/-- Settles O58: the four cases of a step, of which only the last executes an instruction. -/
theorem stepKeepsInvariant : Obligations.StepKeepsInvariant := by
  intro s t hs h
  obtain ⟨-, hstep⟩ | ⟨-, -, hstep⟩ | ⟨-, -, -, hstep⟩ | ⟨herr, hpc, i, -, hstep⟩ := step_cases s <;> rw [hstep] at h
  · cases h; exact hs
  · exact hs.of_raise h
  · exact hs.of_raise h
  · exact hs.of_exec herr hpc h

/-- Settles O59: memory has no cells, and the registers are small numbers. -/
theorem resetHasInvariant : Obligations.ResetHasInvariant :=
  ⟨State.reset_memory_wf, by decide, by decide, by decide⟩

/-- The state RESET leaves has the invariant, from any state and with any font (R190). -/
theorem runInv_resetCommand (s : State) : RunInv (resetCommand s) :=
  ⟨⟨List.Pairwise.nil, fun _ hc => absurd hc List.not_mem_nil⟩, resetHasInvariant.counter, resetHasInvariant.entries,
    resetHasInvariant.fault⟩

/-- A command STEP(r) that answers next does so by its step, the random input put back (R70). -/
theorem step_of_command_step {r : Byte} (h : command (.step r) s = .next t) :
    ∃ u, step (s.setRnd (some r)) = .next u ∧ t = u.setRnd s.rnd := by
  simp only [command, stepCommand] at h
  split at h <;> cases h
  exact ⟨_, ‹_›, rfl⟩

theorem RunInv.of_command (hs : RunInv s) (c : Command) (h : command c s = .next t) : RunInv t := by
  cases c with
  | reset => cases h; exact runInv_resetCommand s
  | load bytes =>
    simp only [command, loadCommand] at h
    split at h <;> cases h
    exact ⟨Memory.wf_writeBytes hs.memory, hs.counter, hs.entries, hs.fault⟩
  | step r =>
    obtain ⟨u, hu, rfl⟩ := step_of_command_step h
    exact (stepKeepsInvariant _ _ (hs.setRnd _) hu).setRnd _
  | tick => cases h; exact ⟨hs.memory, hs.counter, hs.entries, hs.fault⟩
  | setKey k down => cases h; exact ⟨hs.memory, hs.counter, hs.entries, hs.fault⟩

/-- Settles O60: every command keeps the invariant; then by induction on how the state is reached. -/
theorem reachableStatesHaveInvariant : Obligations.ReachableStatesHaveInvariant := by
  refine ⟨fun c s t hs h => hs.of_command c h, fun s hs => ?_⟩
  induction hs with
  | reset => exact resetHasInvariant
  | command c _ h ih => exact ih.of_command c h

/-! ### Flags (R25) -/

theorem flagByte_eq_zero_or_one (c : Bool) : flagByte c = 0 ∨ flagByte c = 1 := by
  cases c
  · exact .inl rfl
  · exact .inr rfl

theorem eq_zero_or_one_of_toNat_lt {b : Byte} (h : b.toNat < 2) : b = 0 ∨ b = 1 := by
  bv_omega

/-- The flag is still in VF after the result went to another register. -/
theorem State.getV_vf_setV_setFlag (s : State) {x : RegNo} (hx : x ≠ vf) (f b : Byte) :
    ((s.setFlag f).setV x b).getV vf = f := by
  rw [getV_setV, if_neg (Ne.symm hx), getV_setFlag, if_pos rfl]

/-- DXYN leaves VF at 1 where a drawn pixel was lit, else at the 0 it was cleared to (R141). -/
theorem drw_vf_eq_zero_or_one {x y : RegNo} {n : Nat} (hn : n < 16) (h : exec (.drw x y n) s = .next t)
    (ht : NoFault t) : t.getV vf = 0 ∨ t.getV vf = 1 := by
  obtain ⟨-, rfl⟩ := drw_of_noFault h ht
  rw [State.getV_draw (drawnPixels_nodup s x y (by omega)) fun p hp => drawnPixels_lt s hp]
  split
  · exact .inr rfl
  · rw [State.getV_setFlag, if_pos rfl]
    exact flagByte_eq_zero_or_one false

/-- Settles O14: each of the five writes its flag before the result, which goes elsewhere; DXYN by its own lemma. -/
theorem flagsAreZeroOrOne : Obligations.FlagsAreZeroOrOne := by
  rintro i s t - h ht (⟨x, y, hx, hi⟩ | ⟨x, y, n, hn, rfl⟩)
  · obtain rfl | rfl | rfl | rfl | rfl := hi <;> cases h <;> rw [State.getV_vf_setV_setFlag _ hx]
    · exact flagByte_eq_zero_or_one _
    · exact flagByte_eq_zero_or_one _
    · exact eq_zero_or_one_of_toNat_lt (by rw [shiftedOutLow_toNat]; omega)
    · exact flagByte_eq_zero_or_one _
    · exact eq_zero_or_one_of_toNat_lt (by rw [shiftedOutHigh_toNat]; bv_omega)
  · exact drw_vf_eq_zero_or_one hn h ht

/-! ### The inputs (R35, R37) -/

/-- The state with its two inputs replaced by functions of themselves. -/
def State.mapInputs (g : Vector Bool 16 → Vector Bool 16) (r : Option Byte → Option Byte) (s : State) : State :=
  { s with key := g s.key, rnd := r s.rnd }

theorem setKeyCommand_eq_mapInputs (k : Fin 16) (down : Bool) (s : State) :
    setKeyCommand k down s = s.mapInputs (·.set k down) id := rfl

theorem State.setRnd_eq_mapInputs (s : State) (r : Option Byte) : s.setRnd r = s.mapInputs id fun _ => r := rfl

/-- An outcome with its next state replaced by a function of it. -/
def mapNext (f : State → State) : Host.Outcome State Fault Refusal → Host.Outcome State Fault Refusal
  | .next s => .next (f s)
  | .fault e => .fault e
  | .refused e => .refused e

section
variable {g : Vector Bool 16 → Vector Bool 16} {r : Option Byte → Option Byte}

theorem State.advance_skipIf_mapInputs (s : State) (c : Bool) :
    (s.mapInputs g r).advance.skipIf c = (s.advance.skipIf c).mapInputs g r := by
  cases c <;> rfl

theorem State.togglePixel_mapInputs (s : State) (p : Nat) :
    (s.mapInputs g r).togglePixel p = (s.togglePixel p).mapInputs g r := by
  by_cases hp : p / Config.fbW < Config.fbH
  · simp only [togglePixel, hp, dif_pos]; rfl
  · simp only [togglePixel, hp, dif_neg, not_false_iff]

theorem State.drawPixel_mapInputs (s : State) (p : Nat) :
    (s.mapInputs g r).drawPixel p = (s.drawPixel p).mapInputs g r := by
  unfold drawPixel
  rw [← togglePixel_mapInputs, apply_ite (mapInputs g r)]
  rfl

theorem State.draw_mapInputs (s : State) (ps : List Nat) :
    ps.foldl State.drawPixel (s.mapInputs g r) = (ps.foldl State.drawPixel s).mapInputs g r := by
  induction ps generalizing s with
  | nil => rfl
  | cons p ps ih => rw [List.foldl_cons, drawPixel_mapInputs, ih, List.foldl_cons]

/-- Two outcomes that are both `.next` under the condition `c`, with states that `f` relates, and else the same fault. -/
theorem eq_mapNext_of_cases {f : State → State} {c : Prop} {o o' : Host.Outcome State Fault Refusal} {u : c → State}
    (hin : ∀ hc, o = .next (u hc)) (hout : ¬ c → o = raise e s)
    (hin' : ∀ hc, o' = .next (f (u hc))) (hout' : ¬ c → o' = .next (f (s.setErr e.code))) : o' = mapNext f o := by
  by_cases hc : c
  · rw [hin hc, hin' hc]; rfl
  · rw [hout hc, hout' hc]; rfl

/-- An instruction reads the keys only if it is SKP or SKNP, the random input only if it is RND, and writes neither: a change of
the inputs it does not read may as well come after it. -/
theorem exec_mapInputs (s : State) (hk : (∀ x, i ≠ .skp x ∧ i ≠ .sknp x) ∨ g = id)
    (hr : (∀ x nn, i ≠ .rnd x nn) ∨ r = id) :
    exec i (s.mapInputs g r) = mapNext (.mapInputs g r) (exec i s) := by
  cases i with
  | ret =>
    obtain h0 | ⟨k, hk⟩ := s.sp_cases
    · rw [exec_ret_empty s h0, exec_ret_empty (s.mapInputs g r) h0]; rfl
    · rw [exec_ret_of_succ s k hk, exec_ret_of_succ (s.mapInputs g r) k hk]; rfl
  | call nnn =>
    have full (h : ¬ s.sp.val < 16) : s.sp.val = 16 := by have := s.sp.isLt; omega
    exact eq_mapNext_of_cases (exec_call_of_lt s nnn) (fun h => exec_call_full s nnn (full h))
      (exec_call_of_lt (s.mapInputs g r) nnn) (fun h => exec_call_full (s.mapInputs g r) nnn (full h))
  | drw x y n =>
    exact eq_mapNext_of_cases (exec_drw_of_in s x y n) (exec_drw_of_out s x y n)
      (fun hb => (exec_drw_of_in (s.mapInputs g r) x y n hb).trans
        (congrArg Host.Outcome.next (State.draw_mapInputs (s.advance.setFlag (flagByte false)) (drawnPixels s x y n))))
      (exec_drw_of_out (s.mapInputs g r) x y n)
  | skp x =>
    obtain hk | rfl := hk
    · exact absurd rfl (hk x).1
    · exact eq_mapNext_of_cases
        (fun hx => exec_skp_of_key s x ⟨_, hx⟩ rfl) (fun hx => exec_skp_of_out s x (Nat.not_lt.1 hx))
        (fun hx => (exec_skp_of_key (s.mapInputs id r) x ⟨_, hx⟩ rfl).trans
          (congrArg Host.Outcome.next (s.advance_skipIf_mapInputs _)))
        (fun hx => exec_skp_of_out (s.mapInputs id r) x (Nat.not_lt.1 hx))
  | sknp x =>
    obtain hk | rfl := hk
    · exact absurd rfl (hk x).2
    · exact eq_mapNext_of_cases
        (fun hx => exec_sknp_of_key s x ⟨_, hx⟩ rfl) (fun hx => exec_sknp_of_out s x (Nat.not_lt.1 hx))
        (fun hx => (exec_sknp_of_key (s.mapInputs id r) x ⟨_, hx⟩ rfl).trans
          (congrArg Host.Outcome.next (s.advance_skipIf_mapInputs _)))
        (fun hx => exec_sknp_of_out (s.mapInputs id r) x (Nat.not_lt.1 hx))
  | seVxNn | sneVxNn | seVxVy | sneVxVy => exact congrArg Host.Outcome.next (s.advance_skipIf_mapInputs _)
  | rnd x nn =>
    obtain hr | rfl := hr
    · exact absurd rfl (hr x nn)
    · rfl
  | addIVx x =>
    exact eq_mapNext_of_cases (exec_addIVx_of_le s x) (fun h => exec_addIVx_of_gt s x (Nat.not_le.1 h))
      (exec_addIVx_of_le (s.mapInputs g r) x) (fun h => exec_addIVx_of_gt (s.mapInputs g r) x (Nat.not_le.1 h))
  | ldBVx x =>
    exact eq_mapNext_of_cases (exec_ldBVx_of_in s x) (exec_ldBVx_of_out s x) (exec_ldBVx_of_in (s.mapInputs g r) x)
      (exec_ldBVx_of_out (s.mapInputs g r) x)
  | ldMemVx x =>
    exact eq_mapNext_of_cases (exec_ldMemVx_of_in s x) (exec_ldMemVx_of_out s x) (exec_ldMemVx_of_in (s.mapInputs g r) x)
      (exec_ldMemVx_of_out (s.mapInputs g r) x)
  | ldVxMem x =>
    exact eq_mapNext_of_cases (exec_ldVxMem_of_in s x) (exec_ldVxMem_of_out s x) (exec_ldVxMem_of_in (s.mapInputs g r) x)
      (exec_ldVxMem_of_out (s.mapInputs g r) x)
  | _ => rfl

end

/-- Settles O15: SETKEY changes one input, which no other instruction reads. -/
theorem keysReadOnlyByKeySkips : Obligations.KeysReadOnlyByKeySkips := by
  intro i s t k down hi h
  simp only [setKeyCommand_eq_mapInputs, exec_mapInputs s (.inl hi) (.inr rfl), h, mapNext]

/-- Settles O16: the random input is the other one. -/
theorem randomInputReadOnlyByRnd : Obligations.RandomInputReadOnlyByRnd := by
  intro i s t r hi h
  simp only [State.setRnd_eq_mapInputs, exec_mapInputs s (.inr rfl) (.inl hi), h, mapNext]

/-! ### The reset state (R39) -/

theorem Memory.unlisted_of_le {font : Config.Font} {a : Nat} (ha : Config.fontLen ≤ a) :
    Memory.unlisted font a = 0 :=
  dif_neg (Nat.not_lt.2 ha)

/-- Settles O57: no cell is listed, so memory reads as 0 past the font; clearing the framebuffer leaves it as it is. -/
theorem resetStateValues : Obligations.ResetStateValues :=
  ⟨fun _ ha _ => Memory.unlisted_of_le ha, by decide, rfl, rfl, by decide, rfl, rfl, rfl,
    State.reset.pixel_clearFb, rfl⟩

end Sys2Proof.Machine
end

section
/-! PROOFS. The statements of spec/20_memory.md: what each instruction leaves unchanged, and that a store over the next
instruction is what the next step fetches. -/

namespace Sys2Proof.Machine

variable {s t : State} {i : Instr} {e : Fault} {x r : RegNo} {b : Byte} {regs : List RegNo}

/-! ### Registers outside the written ones (R25, R65) -/

/-- One more write, of a listed register, leaves every register outside the list alone. -/
theorem OtherRegs.setV (h : OtherRegs regs s t) (hx : x ∈ regs) : OtherRegs regs s (t.setV x b) := by
  intro r hr
  have hne : r ≠ x := fun hrx => hr (hrx ▸ hx)
  rw [State.getV_setV, if_neg hne, h r hr]

/-- The same of a sprite, which writes VF at most (R141). -/
theorem OtherRegs.draw (h : OtherRegs regs s t) (hf : vf ∈ regs) (ps : List Nat) :
    OtherRegs regs s (ps.foldl State.drawPixel t) := by
  intro r hr
  have hne : r ≠ vf := fun hrf => hr (hrf ▸ hf)
  rw [State.getV_draw_other ps hne, h r hr]

theorem otherRegs_of_ldVxMem (h : exec (.ldVxMem x) s = .next t) : OtherRegs (writtenRegs (.ldVxMem x)) s t := by
  intro r hr
  by_cases hb : s.accessInBounds (x.val + 1) = true
  · have hxr : x < r := by simpa [writtenRegs] using hr
    rw [exec_ldVxMem_of_in s x hb] at h
    cases h
    rw [State.getV_loadRegs_readBytes, if_neg (Nat.not_lt.2 hxr), State.getV_advance]
  · rw [exec_ldVxMem_of_out s x hb] at h
    cases h; rfl

theorem otherRegs_of_drw {y : RegNo} {n : Nat} (h : exec (.drw x y n) s = .next t) :
    OtherRegs (writtenRegs (.drw x y n)) s t := by
  by_cases hb : s.accessInBounds n = true
  · rw [exec_drw_of_in s x y n hb] at h
    cases h
    have hclear : OtherRegs [vf] s (s.advance.setFlag (flagByte false)) :=
      OtherRegs.setV (fun _ _ => rfl) List.mem_cons_self
    exact hclear.draw List.mem_cons_self _
  · rw [exec_drw_of_out s x y n hb] at h
    cases h; exact fun _ _ => rfl

/-- No instruction changes a register it does not list, whether it faults or not. -/
theorem otherRegs_of_exec (h : exec i s = .next t) : OtherRegs (writtenRegs i) s t := by
  by_cases hv : Part.v ∈ writtenParts i
  · cases i with
    | ldVxMem x => exact otherRegs_of_ldVxMem h
    | drw x y n => exact otherRegs_of_drw h
    | ldVxNn x | addVxNn x | ldVxVy x | or x | and x | xor x | rnd x | ldVxDt x =>
      cases h
      exact OtherRegs.setV (fun _ _ => rfl) List.mem_cons_self
    | addVxVy x | sub x | shr x | subn x | shl x =>
      cases h
      have hflag (f : Byte) : OtherRegs [x, vf] s (s.advance.setFlag f) := OtherRegs.setV (fun _ _ => rfl) (by simp)
      exact (hflag _).setV List.mem_cons_self
    | _ => simp [writtenParts] at hv
  · obtain ⟨e, rfl⟩ | ⟨-, hframe⟩ := exec_next_cases h
    · exact fun _ _ => rfl
    · exact fun r _ => hframe .v hv r

/-! ### Frames (R65) -/

/-- A fault recorded over the same code changes nothing at all (R163). -/
theorem eq_of_raise_of_err (h : raise e s = .next t) (herr : t.err = s.err) : t = s := by
  cases h
  rw [State.setErr_err] at herr
  rw [herr]; rfl

/-- Settles O12: a completed instruction keeps its frame and the bytes it does not store, and one that records a fault over
the same ERR leaves the state as it was; the registers by their own lemma. -/
theorem everyInstructionKeepsItsFrame : Obligations.EveryInstructionKeepsItsFrame := by
  intro i s t h herr
  obtain ⟨e, -, hr⟩ | ⟨u, hu, -, hframe, hbytes⟩ := exec_cases (s := s) i
  · obtain rfl := eq_of_raise_of_err (hr.symm.trans h) herr
    exact ⟨Frame.refl _ _, fun _ _ => rfl, fun _ _ => rfl⟩
  · obtain rfl := Host.Outcome.next.inj (hu.symm.trans h)
    exact ⟨hframe, otherRegs_of_exec h, hbytes⟩

/-! ### Storing registers over code (R63) -/

theorem exec_ldMemVx_of_le (hb : s.i.toNat + x.val ≤ 0xFFF) :
    exec (.ldMemVx x) s = .next (s.advance.writeBytes (s.dataAddr 0) (s.firstRegs (x.val + 1))) :=
  exec_ldMemVx_of_in s x ((s.accessInBounds_iff _).2 (.inr hb))

/-- FX55 leaves each of V0 to VX at the address of its own number from I on (R134). -/
theorem readByte_of_ldMemVx (hb : s.i.toNat + x.val ≤ 0xFFF) (h : exec (.ldMemVx x) s = .next t) (hr : r ≤ x) :
    t.readByte (s.dataAddr r.val) = s.getV r := by
  rw [exec_ldMemVx_of_le hb] at h
  cases h
  have hlen : (s.firstRegs (x.val + 1)).length = x.val + 1 := s.firstRegs_length _ x.isLt
  have hr' : r.val ≤ x.val := hr
  have hin : s.dataAddr 0 ≤ s.dataAddr r.val ∧ s.dataAddr r.val < s.dataAddr 0 + (s.firstRegs (x.val + 1)).length := by
    simp only [hlen, State.dataAddr]; omega
  rw [State.readByte_writeBytes _ (by simp only [hlen, State.dataAddr, Config.memSize]; omega), dif_pos hin,
    State.firstRegs_getElem]
  simp [State.dataAddr]

/-- The word at PC decides the step of a state that is not halted (R70, R71). -/
theorem step_eq_exec (herr : s.err = 0) (hpc : s.pc.toNat ≤ 0xFFE) (hd : decodeWord s.wordAtPc = .ok i) :
    step s = exec i s := by
  obtain ⟨hne, -⟩ | ⟨-, hgt, -⟩ | ⟨-, -, ⟨r, hr⟩, -⟩ | ⟨-, -, j, hj, hstep⟩ := step_cases s
  · exact absurd herr hne
  · omega
  · rw [hd] at hr; cases hr
  · rw [hd] at hj; cases hj; exact hstep

/-- Settles O40: the two bytes at the next PC are the stored VK and V(K+1), so the word fetched there is theirs. -/
theorem storedBytesAreFetched : Obligations.StoredBytesAreFetched := by
  intro x k s t i herr hb hk hpc h hd
  have hsucc : (k + 1).val = k.val + 1 := Fin.val_add_one_of_lt (hk.trans_le x.le_last)
  have hhi : t.readByte (s.dataAddr k.val) = s.getV k := readByte_of_ldMemVx hb h hk.le
  have hlo : t.readByte (s.dataAddr k.val + 1) = s.getV (k + 1) := by
    rw [← readByte_of_ldMemVx hb h (Fin.add_one_le_of_lt hk), hsucc]; rfl
  obtain ⟨hterr, htpc⟩ : t.err = 0 ∧ t.pc.toNat = s.dataAddr k.val := by
    rw [exec_ldMemVx_of_le hb] at h
    cases h; exact ⟨herr, hpc⟩
  refine step_eq_exec hterr ?_ ?_
  · have hlt : k.val < x.val := hk
    rw [htpc, State.dataAddr]; omega
  · rw [State.wordAtPc, htpc, hhi, hlo, hd]

end Sys2Proof.Machine
end

section
/-! PROOFS. The statements of spec/30_encoding.md: that decoder and encoder are inverse to each other, and that every
step answers a next state, which is the decoded instruction's where one is fetched. -/

namespace Sys2Proof

variable {i : Instr} {w : Word}

/-! ### From an instruction to its word and back (R73, R75) -/

theorem decodeWord_encodeWord (hi : WellFormed i) : decodeWord (encodeWord i) = .ok i := by
  cases i with
  | cls | ret => decide
  | drw x y n =>
    have hn : n < 16 := of_decide_eq_true hi
    simp [encodeWord, decodeWord, Nat.mod_eq_of_lt hn]
  | ldVxVy | or | and | xor | addVxVy | sub | shr | subn | shl => simp [encodeWord, decodeWord, decodeFamily8]
  | skp | sknp => simp [encodeWord, decodeWord, decodeFamilyE]
  | ldVxDt | ldDtVx | ldStVx | addIVx | ldFVx | ldBVx | ldMemVx | ldVxMem =>
    simp [encodeWord, decodeWord, decodeFamilyF]
  | _ => simp [encodeWord, decodeWord]

/-- Decoding the bytes of a word is decoding the word; what follows is left (R52, R73). -/
theorem decode_bytesOfWord_append (w : Word) (rest : List Byte) :
    decode (bytesOfWord w ++ rest) = (decodeWord w).map (·, rest) := by
  rw [bytesOfWord, List.cons_append, List.cons_append, List.nil_append, decode_pair, wordOfBytes_bytesOfWord w _ _ rfl]
  cases decodeWord w <;> rfl

/-- Settles O1: the two bytes make the encoder's word again, and that word decodes to the instruction, by family. -/
theorem decodeEncodeAgree : Obligations.DecodeEncodeAgree := by
  intro i rest hi
  rw [encode, decode_bytesOfWord_append, decodeWord_encodeWord hi]; rfl

/-! ### From a word to its instruction and back (R73) -/

theorem wordNNN_of_nibA {a : BitVec 4} (ha : nibA w = a) : wordNNN a (fieldNNN w) = w :=
  ha ▸ wordNNN_fields w

theorem wordXNN_of_fields {a : BitVec 4} {nn : Byte} (ha : nibA w = a) (hn : fieldNN w = nn) :
    wordXNN a (fieldX w) nn = w :=
  ha ▸ hn ▸ wordXNN_fields w

theorem wordXYD_of_fields {a d : BitVec 4} (ha : nibA w = a) (hd : nibD w = d) :
    wordXYD a (fieldX w) (fieldY w) d = w :=
  ha ▸ hd ▸ wordXYD_fields w

theorem encodeWord_of_decodeFamily8 (ha : nibA w = 8) (h : decodeFamily8 w = .ok i) :
    WellFormed i ∧ encodeWord i = w := by
  unfold decodeFamily8 at h
  split at h <;> cases h
  all_goals exact ⟨rfl, wordXYD_of_fields ha (BitVec.eq_of_toNat_eq ‹_›)⟩

theorem encodeWord_of_decodeFamilyE (ha : nibA w = 0xE) (h : decodeFamilyE w = .ok i) :
    WellFormed i ∧ encodeWord i = w := by
  unfold decodeFamilyE at h
  split at h <;> cases h
  all_goals exact ⟨rfl, wordXNN_of_fields ha (BitVec.eq_of_toNat_eq ‹_›)⟩

theorem encodeWord_of_decodeFamilyF (ha : nibA w = 0xF) (h : decodeFamilyF w = .ok i) :
    WellFormed i ∧ encodeWord i = w := by
  unfold decodeFamilyF at h
  split at h <;> cases h
  all_goals exact ⟨rfl, wordXNN_of_fields ha (BitVec.eq_of_toNat_eq ‹_›)⟩

/-- Settles O2: by the family nibble, in the order of the decoder's arms: each word is built of its own fields, the
fixed ones being what the arm has tested. -/
theorem encodeDecodeAgree : Obligations.EncodeDecodeAgree := by
  intro w i h
  unfold decodeWord at h
  split at h
  -- Family 0: the two words are literal.
  case h_1 =>
    split at h
    next hcls => cases h; exact ⟨rfl, hcls.symm⟩
    next =>
      split at h <;> cases h
      next hret => exact ⟨rfl, hret.symm⟩
  -- Families 1, 2, A and B: `a NNN`.
  case h_2 ha | h_3 ha | h_11 ha | h_12 ha => cases h; exact ⟨rfl, wordNNN_of_nibA (BitVec.eq_of_toNat_eq ha)⟩
  -- Families 3, 4, 6, 7 and C: `a X NN`.
  case h_4 ha | h_5 ha | h_7 ha | h_8 ha | h_13 ha =>
    cases h; exact ⟨rfl, wordXNN_of_fields (BitVec.eq_of_toNat_eq ha) rfl⟩
  -- Families 5 and 9: `a X Y 0`.
  case h_6 ha | h_10 ha =>
    split at h <;> cases h
    exact ⟨rfl, wordXYD_of_fields (BitVec.eq_of_toNat_eq ha) ‹_›⟩
  -- Family D: N is the nibble `d`, so it is below 16.
  case h_14 ha =>
    cases h
    exact ⟨decide_eq_true (nibD w).isLt, wordXYD_of_fields (BitVec.eq_of_toNat_eq ha) (by simp)⟩
  -- Families 8, E and F: by the function code; the last arm is F, since a nibble is at most 15.
  case h_9 ha => exact encodeWord_of_decodeFamily8 (BitVec.eq_of_toNat_eq ha) h
  case h_15 ha => exact encodeWord_of_decodeFamilyE (BitVec.eq_of_toNat_eq ha) h
  case h_16 =>
    have ha : (nibA w).toNat = 0xF := by have := (nibA w).isLt; grind
    exact encodeWord_of_decodeFamilyF (BitVec.eq_of_toNat_eq ha) h

/-- Settles O5: the decoder is evaluated on each of the eight words. -/
theorem sampleWordsDecode : Obligations.SampleWordsDecode := by
  unfold Obligations.SampleWordsDecode; decide

end Sys2Proof

namespace Sys2Proof.Machine

/-! ### Every step answers a next state (R70, R163, R164) -/

theorem exec_answers_next (i : Instr) (s : State) : ∃ t, exec i s = .next t := by
  obtain ⟨e, -, hr⟩ | ⟨t, ht, -⟩ := exec_cases (s := s) i
  · exact ⟨_, hr⟩
  · exact ⟨t, ht⟩

theorem step_answers_next (s : State) : ∃ t, step s = .next t := by
  obtain ⟨-, h⟩ | ⟨-, -, h⟩ | ⟨-, -, -, h⟩ | ⟨-, -, i, -, h⟩ := step_cases s
  · exact ⟨s, h⟩
  · exact ⟨_, h⟩
  · exact ⟨_, h⟩
  · rw [h]; exact exec_answers_next i s

/-- Settles O8: a step is halted, records its own fault, or is an instruction, which records a fault or completes. -/
theorem everyStepAnswersNext : Obligations.EveryStepAnswersNext :=
  ⟨step_answers_next, exec_answers_next⟩

/-- Settles O6: the word at PC decides the step; a step always answers, so STEP(r) answers with the input put back. -/
theorem stepRunsDecodedInstruction : Obligations.StepRunsDecodedInstruction := by
  refine ⟨fun s i herr hpc hd => step_eq_exec herr hpc hd, fun s r => ?_⟩
  obtain ⟨t, ht⟩ := step_answers_next (s.setRnd (some r))
  exact ⟨t, ht, command_step_of_next ht⟩

end Sys2Proof.Machine
end

section
/-! PROOFS. The statements of spec/40_flow_and_skips.md: a return takes back what the call pushed. -/

namespace Sys2Proof.Machine

variable {s t : State}

/-- A call below the top of the stack leaves the address after its own at the old SP, and SP one up (R102). -/
theorem stack_of_call {nnn : BitVec 12} (hsp : s.sp.val < 16) (h : exec (.call nnn) s = .next t) :
    t.getStk ⟨s.sp.val, hsp⟩ = s.pc + 2 ∧ t.sp.val = s.sp.val + 1 := by
  rw [exec_call_of_lt s nnn hsp] at h
  cases h
  simp [State.getStk_setStk]

/-- Settles O30: the entry the return pops is the one the call pushed, for SP is one above it. -/
theorem callThenReturn : Obligations.CallThenReturn := by
  intro nnn s t u hsp hcall hstk hspEq
  obtain ⟨hentry, htop⟩ := stack_of_call hsp hcall
  have hpop : u.sp.val = (⟨s.sp.val, hsp⟩ : Fin 16).val + 1 := by rw [hspEq, htop]
  exact ⟨_, exec_ret_of_succ u _ hpop, (hstk _).trans hentry, rfl⟩

end Sys2Proof.Machine
end

section
/-! PROOFS. The statements of spec/41_alu.md on the operations that write one register and no flag: immediate load and add,
copy, and the bitwise ones. -/

namespace Sys2Proof.Machine

variable {s : State} {i : Instr} {x y : RegNo} {b : Byte}

/-! ### One register written, PC advanced (R65, R72) -/

theorem frame_advance_setV (s : State) (x : RegNo) (b : Byte) : Frame [.v, .pc] s (s.advance.setV x b) := by
  intro p hp
  cases p with
  | v | pc => simp at hp
  | _ => simp [Agree]

/-- An instruction whose meaning is one register write completes, with VX = `b` and the frame of R65. -/
theorem result_of_writeReg (h : exec i s = writeReg s.advance x b) :
    ∃ t, exec i s = .next t ∧ t.getV x = b ∧ OtherRegs [x] s t ∧ t.pc = s.pc + 2 ∧ Frame [.v, .pc] s t := by
  have hval : (s.advance.setV x b).getV x = b := by rw [State.getV_setV, if_pos rfl]
  have hregs : OtherRegs [x] s (s.advance.setV x b) := OtherRegs.setV (fun _ _ => rfl) List.mem_cons_self
  exact ⟨_, h, hval, hregs, rfl, frame_advance_setV s x b⟩

/-- The same where the byte written comes bit by bit, by `f`, from the bits of VX and VY. -/
theorem result_of_bitwise {op : Byte → Byte → Byte} {f : Bool → Bool → Bool}
    (hop : ∀ a c k, (op a c).getLsbD k = f (a.getLsbD k) (c.getLsbD k))
    (h : exec i s = writeReg s.advance x (op (s.getV x) (s.getV y))) :
    ∃ t, exec i s = .next t ∧ (∀ k, (t.getV x).getLsbD k = f ((s.getV x).getLsbD k) ((s.getV y).getLsbD k)) ∧
      OtherRegs [x] s t ∧ t.pc = s.pc + 2 ∧ Frame [.v, .pc] s t := by
  obtain ⟨t, ht, hval, hrest⟩ := result_of_writeReg h
  exact ⟨t, ht, fun k => by rw [hval, hop], hrest⟩

/-! ### Bitwise operations (R114 to R116) -/

/-- Settles O20: each of the three is a bitwise register write, and its word is the encoder's. -/
theorem logicResults : Obligations.LogicResults := fun x y _ =>
  ⟨⟨decodeWord_encodeWord (i := .or x y) rfl, result_of_bitwise (fun _ _ _ => BitVec.getLsbD_or) rfl⟩,
    ⟨decodeWord_encodeWord (i := .and x y) rfl, result_of_bitwise (fun _ _ _ => BitVec.getLsbD_and) rfl⟩,
    ⟨decodeWord_encodeWord (i := .xor x y) rfl, result_of_bitwise (fun _ _ _ => BitVec.getLsbD_xor) rfl⟩⟩

/-! ### Immediate load, immediate add, copy (R111 to R113) -/

/-- Settles O17: the byte written is NN itself. -/
theorem loadImmediateResult : Obligations.LoadImmediateResult := fun x nn _ =>
  ⟨decodeWord_encodeWord (i := .ldVxNn x nn) rfl, result_of_writeReg rfl⟩

/-- Settles O18: the byte written is the sum of bytes, whose number is the sum modulo 256. -/
theorem addImmediateResult : Obligations.AddImmediateResult := by
  intro x nn s
  have hexec : exec (.addVxNn x nn) s = writeReg s.advance x (s.getV x + nn) := rfl
  obtain ⟨t, ht, hval, hrest⟩ := result_of_writeReg hexec
  have hsum : (t.getV x).toNat = ((s.getV x).toNat + nn.toNat) % 256 := by rw [hval, BitVec.toNat_add]
  exact ⟨decodeWord_encodeWord (i := .addVxNn x nn) rfl, t, ht, hsum, hrest⟩

/-- Settles O19: the byte written is VY on entry, X = Y included. -/
theorem copyRegisterResult : Obligations.CopyRegisterResult := fun x y _ =>
  ⟨decodeWord_encodeWord (i := .ldVxVy x y) rfl, result_of_writeReg rfl⟩

end Sys2Proof.Machine
end

section
/-! PROOFS. The statements of spec/42_index_and_memory.md: the instructions that set I, and that FX65 loads back what FX55
stored. -/

namespace Sys2Proof.Machine

variable {s t : State} {i : Instr} {x r : RegNo} {w : Word} {n : Nat}

/-! ### FX55, then FX65 (R134, R135) -/

theorem exec_ldVxMem_of_le (hb : s.i.toNat + x.val ≤ 0xFFF) :
    exec (.ldVxMem x) s = .next (s.advance.loadRegs (s.readBytes (s.dataAddr 0) (x.val + 1))) :=
  exec_ldVxMem_of_in s x ((s.accessInBounds_iff _).2 (.inr hb))

/-- FX65 gives each of V0 to VX the byte at the address of its own number from I on (R135). -/
theorem getV_of_ldVxMem (hb : s.i.toNat + x.val ≤ 0xFFF) (h : exec (.ldVxMem x) s = .next t) (hr : r ≤ x) :
    t.getV r = s.readByte (s.dataAddr r.val) := by
  rw [exec_ldVxMem_of_le hb] at h
  cases h
  rw [State.getV_loadRegs_readBytes, if_pos (Nat.lt_succ_of_le hr)]
  rfl

/-- FX55 leaves I alone, whether it faults or not (R134, R163). -/
theorem i_of_ldMemVx (h : exec (.ldMemVx x) s = .next t) : t.i = s.i := by
  obtain ⟨e, rfl⟩ | ⟨-, hframe⟩ := exec_next_cases h
  · rfl
  · exact hframe .i (by simp [writtenParts])

/-- Settles O39: I is the same for both, so FX65 reads VR at the address where FX55 left it. -/
theorem storeThenLoadRestoresRegisters : Obligations.StoreThenLoadRestoresRegisters := by
  intro x s t u hb hstore hi hmem
  have hus : u.i = s.i := hi.trans (i_of_ldMemVx hstore)
  have hbu : u.i.toNat + x.val ≤ 0xFFF := by rwa [hus]
  have hload := exec_ldVxMem_of_le hbu
  refine ⟨_, hload, fun r hr => ?_⟩
  have haddr : u.dataAddr r.val = s.dataAddr r.val := by simp only [State.dataAddr, hus]
  rw [getV_of_ldVxMem hbu hload hr, hmem, haddr, readByte_of_ldMemVx hb hstore hr]

/-! ### I written, PC advanced (R130, R132) -/

/-- An instruction that may write I and PC alone, and whose meaning is to set I, completes with the frame of R65. -/
theorem result_of_setI (hparts : writtenParts i = [.i, .pc]) (h : exec i s = .next (s.advance.setI w))
    (hw : w.toNat = n) :
    ∃ t, exec i s = .next t ∧ t.i.toNat = n ∧ t.pc = s.pc + 2 ∧ Frame [.i, .pc] s t := by
  obtain ⟨hframe, -, -⟩ := everyInstructionKeepsItsFrame i s _ h rfl
  rw [hparts] at hframe
  exact ⟨_, h, hw, rfl, hframe⟩

/-- The product is at most 1275, so that sixteen bits hold it (R132). -/
theorem glyphAddr_toNat (d : Byte) : (glyphAddr d).toNat = d.toNat * 5 := by
  unfold glyphAddr Config.glyphLen; bv_omega

/-- Settles O33: I is set to NNN zero-extended. -/
theorem loadIndexResult : Obligations.LoadIndexResult := fun nnn _ =>
  ⟨decodeWord_encodeWord (i := .ldINnn nnn) rfl, result_of_setI rfl rfl (immAddr_toNat nnn)⟩

/-- Settles O35: I is set to the product, of VX as it was on entry. -/
theorem glyphAddressResult : Obligations.GlyphAddressResult := fun x s =>
  ⟨decodeWord_encodeWord (i := .ldFVx x) rfl, result_of_setI rfl rfl (glyphAddr_toNat (s.getV x))⟩

end Sys2Proof.Machine
end

section
/-! PROOFS. The statements of spec/43_display.md: that CLS darkens every pixel, and that the same sprite drawn twice restores
every pixel. -/

namespace Sys2Proof.Machine

variable {s t : State} {x y : RegNo} {n : Nat}

/-! ### CLS (R140) -/

/-- Settles O41: the framebuffer is cleared after the advance of PC; the frame is that of every instruction. -/
theorem clearResult : Obligations.ClearResult := by
  intro s
  have hexec : exec .cls s = .next s.advance.clearFb := rfl
  obtain ⟨hframe, -, -⟩ := everyInstructionKeepsItsFrame .cls s _ hexec rfl
  exact ⟨decodeWord_encodeWord (i := .cls) rfl, _, hexec, s.advance.pixel_clearFb, rfl, hframe⟩

/-! ### The same sprite twice (R142) -/

/-- DXYN toggles the pixels it draws where its access is in bounds, and no pixel where it faults (R141, R57). -/
theorem pixel_of_drw (hn : n < 16) (h : exec (.drw x y n) s = .next t) (p : Nat) :
    t.pixel p = (s.pixel p ^^ (s.accessInBounds n && decide (p ∈ drawnPixels s x y n))) := by
  by_cases hb : s.accessInBounds n = true
  · rw [exec_drw_of_in s x y n hb] at h
    cases h
    rw [hb, Bool.true_and, State.pixel_draw (drawnPixels_nodup s x y (by omega)) fun q hq => drawnPixels_lt s hq]
    rfl
  · rw [exec_drw_of_out s x y n hb] at h
    cases h
    rw [Bool.eq_false_of_not_eq_true hb, Bool.false_and, Bool.xor_false]
    rfl

theorem State.accessInBounds_congr (hi : t.i = s.i) (n : Nat) : t.accessInBounds n = s.accessInBounds n := by
  simp only [accessInBounds, dataAddr, hi]

/-- A coordinate that is not taken from VF is not changed by the writing of VF. -/
theorem drawCoord_congr (hv : OtherRegs [vf] s t) (hx : x ≠ vf) : drawCoord t x = drawCoord s x := by
  simp only [drawCoord, if_neg hx, hv x (mt List.mem_singleton.1 hx)]

/-- What a sprite covers depends on memory, on I, and, with X and Y other than F, on registers other than VF alone. -/
theorem mem_drawnPixels_congr (hm : ∀ a, t.readByte a = s.readByte a) (hi : t.i = s.i) (hv : OtherRegs [vf] s t)
    (hx : x ≠ vf) (hy : y ≠ vf) (p : Nat) : p ∈ drawnPixels t x y n ↔ p ∈ drawnPixels s x y n := by
  rw [mem_drawnPixels, mem_drawnPixels, drawCoord_congr hv hx, drawCoord_congr hv hy, SpriteCovers.congr hm hi]

/-- Settles O43: DXYN keeps what decides its pixels, so the second one toggles the same pixels as the first, or faults too. -/
theorem drawTwiceRestoresFrame : Obligations.DrawTwiceRestoresFrame := by
  intro x y n s t u hn hx hy herr _ hfirst hsecond p
  obtain ⟨hframe, hregs, -⟩ := everyInstructionKeepsItsFrame _ s t hfirst herr
  have hm : ∀ a, t.readByte a = s.readByte a := hframe .mem (by simp [writtenParts])
  have hi : t.i = s.i := hframe .i (by simp [writtenParts])
  rw [pixel_of_drw hn hsecond, pixel_of_drw hn hfirst, State.accessInBounds_congr hi,
    decide_eq_decide.2 (mem_drawnPixels_congr hm hi hregs hx hy p), Bool.xor_assoc, Bool.xor_self, Bool.xor_false]

end Sys2Proof.Machine
end

section
/-! PROOFS. The statements of spec/44_keys_and_timers.md on the timers: how VX is set from DT, and DT or ST from VX, and how
long SOUND stays on under TICK. -/

namespace Sys2Proof.Machine

/-! ### TICK again and again (R175, R176) -/

/-- A run of TICKs alone answers next from every state, with the state those TICKs make. -/
theorem run_replicate_tick (n : Nat) (s : State) :
    run (List.replicate n .tick) s = .next (tickCommand^[n] s) := by
  induction n generalizing s with
  | zero => rfl
  | succ n ih =>
    have htick : command .tick s = .next (tickCommand s) := rfl
    rw [List.replicate_succ, run_cons_of_next htick, ih, Function.iterate_succ_apply]

/-- After `n` TICKs the sound timer is `n` less, stopping at 0. -/
theorem st_iterate_tickCommand (n : Nat) (s : State) : (tickCommand^[n] s).st.toNat = s.st.toNat - n := by
  induction n with
  | zero => rfl
  | succ n ih =>
    have hlast : (tickCommand (tickCommand^[n] s)).st.toNat = (tickCommand^[n] s).st.toNat - 1 := countDown_toNat _
    rw [Function.iterate_succ_apply', hlast, ih, Nat.sub_sub]

/-! ### SOUND (R154, R180) -/

/-- SOUND follows ST as a number. -/
theorem State.sound_iff_toNat (s : State) : s.sound = true ↔ s.st.toNat ≠ 0 := by
  rw [s.sound_iff, Ne, BitVec.toNat_eq]; rfl

/-- SOUND is still on after `n` TICKs exactly when ST held more than `n`. -/
theorem sound_iterate_tickCommand (n : Nat) (s : State) :
    (tickCommand^[n] s).sound = true ↔ n < s.st.toNat := by
  rw [State.sound_iff_toNat, st_iterate_tickCommand, Nat.sub_ne_zero_iff_lt]

/-! ### The three timer instructions (R152 to R154) -/

/-- Settles O45: the byte written to VX is DT, which the advance of PC left alone. -/
theorem readDelayTimerResult : Obligations.ReadDelayTimerResult := fun x _ =>
  ⟨decodeWord_encodeWord (i := .ldVxDt x) rfl, result_of_writeReg rfl⟩

theorem exec_ldDtVx_result (x : RegNo) (s : State) :
    ∃ t, exec (.ldDtVx x) s = .next t ∧ t.dt = s.getV x ∧ t.pc = s.pc + 2 ∧ Frame [.dt, .pc] s t := by
  have hexec : exec (.ldDtVx x) s = .next (s.advance.setDt (s.getV x)) := rfl
  obtain ⟨hframe, -, -⟩ := everyInstructionKeepsItsFrame _ s _ hexec rfl
  exact ⟨_, hexec, rfl, rfl, hframe⟩

theorem exec_ldStVx_result (x : RegNo) (s : State) :
    ∃ t, exec (.ldStVx x) s = .next t ∧ t.st = s.getV x ∧ t.pc = s.pc + 2 ∧ Frame [.st, .pc] s t := by
  have hexec : exec (.ldStVx x) s = .next (s.advance.setSt (s.getV x)) := rfl
  obtain ⟨hframe, -, -⟩ := everyInstructionKeepsItsFrame _ s _ hexec rfl
  exact ⟨_, hexec, rfl, rfl, hframe⟩

/-- Settles O46: what FX18 leaves in ST decides SOUND, then and after any number of TICKs, each of which counts ST down. -/
theorem setTimerResults : Obligations.SetTimerResults := by
  intro x s
  obtain ⟨t, hexec, hst, hpc, hframe⟩ := exec_ldStVx_result x s
  have hsound : t.sound = true ↔ s.getV x ≠ 0 := by rw [t.sound_iff, hst]
  have hticks : ∀ n, ∃ u, run (List.replicate n .tick) t = .next u ∧ (u.sound = true ↔ n < (s.getV x).toNat) :=
    fun n => ⟨_, run_replicate_tick n t, by rw [sound_iterate_tickCommand, hst]⟩
  exact ⟨⟨decodeWord_encodeWord (i := .ldDtVx x) rfl, exec_ldDtVx_result x s⟩,
    decodeWord_encodeWord (i := .ldStVx x) rfl, t, hexec, hst, hsound, hticks, hpc, hframe⟩

end Sys2Proof.Machine
end

section
/-! PROOFS. The statements of spec/60_exceptions.md: which instruction records which fault, TICK again and again, SETKEY, and
the outputs FB and SOUND. -/

namespace Sys2Proof.Machine

/-! ### Faults (R162, R163) -/

/-- Settles O10: the instruction raises the one fault it can, or completes and keeps ERR. -/
theorem onlyNamedInstructionsFault : Obligations.OnlyNamedInstructionsFault := by
  intro i s t h
  obtain ⟨e, he, hr⟩ | ⟨u, hu, herr, -, -⟩ := exec_cases (s := s) i
  · rw [hr] at h; cases h; exact .inr ⟨e, he, rfl⟩
  · rw [hu] at h; cases h; exact .inl herr

/-! ### TICK (R175, R176) -/

/-- TICK writes the two timers and nothing else. -/
theorem frame_tickCommand (s : State) : Frame [.dt, .st] s (tickCommand s) := by
  intro p hp
  cases p with
  | dt | st => simp at hp
  | _ => simp [Agree, tickCommand]

theorem frame_iterate_tickCommand (n : Nat) (s : State) : Frame [.dt, .st] s (tickCommand^[n] s) := by
  induction n with
  | zero => exact Frame.refl _ s
  | succ n ih => rw [Function.iterate_succ_apply']; exact ih.trans (frame_tickCommand _)

/-- After `n` TICKs the delay timer is `n` less, stopping at 0, as the sound timer is (`st_iterate_tickCommand`). -/
theorem dt_iterate_tickCommand (n : Nat) (s : State) : (tickCommand^[n] s).dt.toNat = s.dt.toNat - n := by
  induction n with
  | zero => rfl
  | succ n ih => rw [Function.iterate_succ_apply', ← Nat.sub_sub, ← ih]; exact countDown_toNat _

/-- Settles O48: the run of TICKs is `tickCommand` iterated, which counts both timers down and writes nothing else. -/
theorem ticksCountDown : Obligations.TicksCountDown := fun n s =>
  ⟨_, run_replicate_tick n s, dt_iterate_tickCommand n s, st_iterate_tickCommand n s, frame_iterate_tickCommand n s⟩

/-! ### SETKEY (R178) -/

theorem key_setKeyCommand (k j : Fin 16) (down : Bool) (s : State) :
    (setKeyCommand k down s).key[j] = if j = k then down else s.key[j] := by
  simp only [setKeyCommand, Fin.getElem_fin, Vector.getElem_set, Fin.ext_iff, eq_comm]

theorem frame_setKeyCommand (k : Fin 16) (down : Bool) (s : State) : Frame [.key] s (setKeyCommand k down s) := by
  intro p hp
  cases p with
  | key => simp at hp
  | mem | v | stk | fb => exact fun _ => rfl
  | _ => rfl

/-- Settles O52: SETKEY replaces one entry of the key inputs. -/
theorem setKeyResult : Obligations.SetKeyResult := fun k down s =>
  ⟨_, rfl, fun j => key_setKeyCommand k j down s, frame_setKeyCommand k down s⟩

/-! ### The outputs (R34, R179, R180) -/

/-- FB lists the 2048 pixels by index (R179). -/
theorem State.frame_eq (s : State) : s.frame = (List.range 2048).map s.pixel := rfl

theorem State.frame_length (s : State) : s.frame.length = 2048 := by
  rw [frame_eq, List.length_map, List.length_range]

theorem State.getElem?_frame (s : State) {p : Nat} (hp : p < 2048) : s.frame[p]? = some (s.pixel p) := by
  rw [frame_eq, List.getElem?_map, List.getElem?_range hp, Option.map_some]

/-- The pixel of row-major index `y * 64 + x` is bit `x` of row `y` (R34). -/
theorem State.pixel_rowMajor (s : State) {x y : Nat} (hx : x < 64) (hy : y < 32) :
    s.pixel (y * 64 + x) = s.fb[y].getLsbD x := by
  have hcol : (y * 64 + x) % 64 = x := by omega
  have hrow : (y * 64 + x) / 64 = y := by omega
  simp only [pixel, FrameBuffer.pixelAt, hcol, hrow, dif_pos hy]

/-- Settles O56: FB lists the pixels by index, and an index splits into row and column in one way. -/
theorem outputsFollowState : Obligations.OutputsFollowState := by
  refine fun s => ⟨s.frame_length, fun x y hx hy => ?_, s.sound_iff_toNat⟩
  simp only [Nat.mod_eq_of_lt hy]
  rw [s.getElem?_frame (by omega), s.pixel_rowMajor hx hy]
  rfl

end Sys2Proof.Machine
end

section
/-! PROOFS. The statements of spec/70_reset_and_hazards.md: what RESET leaves, what LOAD leaves, and that the two in a row
leave the launch state. -/

namespace Sys2Proof.Machine

variable {a j : Nat} {bs : List Byte}

/-! ### RESET (R190) -/

theorem Memory.unlisted_of_lt {font : Config.Font} (ha : a < Config.fontLen) : Memory.unlisted font a = font[a] :=
  dif_pos ha

/-- After RESET every address reads as one that no cell lists: the font, then zeros. -/
theorem State.readByte_resetCommand (s : State) (a : Nat) : (resetCommand s).readByte a = Memory.unlisted s.font a := rfl

/-- Settles O49: memory is the font and zeros, and every register holds what it holds in the reset state. -/
theorem resetCommandResult : Obligations.ResetCommandResult := by
  intro s
  obtain ⟨-, hv, hi, hpc, hstk, hsp, hdt, hst, hfb, herr⟩ := resetStateValues
  have hfont : ∀ a, a ≤ 0x4F → ∃ h : a < 80, (resetCommand s).readByte a = s.font[a] := by
    intro a ha
    have hlt : a < 80 := by omega
    exact ⟨hlt, (s.readByte_resetCommand a).trans (Memory.unlisted_of_lt hlt)⟩
  have hzero : ∀ a, 0x50 ≤ a → a ≤ 0xFFF → (resetCommand s).readByte a = 0 :=
    fun a ha _ => (s.readByte_resetCommand a).trans (Memory.unlisted_of_le ha)
  exact ⟨_, rfl, hfont, hzero, hv, hi, hpc, hstk, hsp, hdt, hst, hfb, herr, rfl⟩

/-! ### LOAD (R193) -/

/-- A LOAD that is enabled stores its bytes from 0x200 on. -/
theorem command_load_of_le (h : bs.length ≤ 3584) : command (.load bs) s = .next (s.writeBytes 0x200 bs) :=
  if_pos h

/-- The byte stored at offset `j` of a run that lies in memory is the `j`-th. -/
theorem State.readByte_writeBytes_add (s : State) (hb : a + bs.length ≤ 4096) (hj : j < bs.length) :
    (s.writeBytes a bs).readByte (a + j) = bs[j] := by
  have hin : a ≤ a + j ∧ a + j < a + bs.length := by omega
  rw [s.readByte_writeBytes hb, dif_pos hin]
  simp only [Nat.add_sub_cancel_left]

theorem frame_writeBytes (s : State) (a : Nat) (bs : List Byte) : Frame [.mem] s (s.writeBytes a bs) := by
  intro p hp
  cases p with
  | mem => simp at hp
  | v | stk | fb => exact fun _ => rfl
  | _ => rfl

/-- Settles O50: 3584 bytes from 0x200 on end where memory ends, so that each is stored; a store writes memory alone. -/
theorem loadCommandResult : Obligations.LoadCommandResult := fun bytes s h =>
  ⟨_, command_load_of_le h, fun _ hj => s.readByte_writeBytes_add (by omega) hj,
    fun _ hc => s.readByte_writeBytes_other hc, frame_writeBytes s 0x200 bytes⟩

/-! ### RESET, then LOAD (R196, R197) -/

/-- A program stored over what RESET leaves is the launch state of that program. -/
theorem booted_writeBytes_resetCommand (s : State) (h : bs.length ≤ 3584) :
    Booted bs ((resetCommand s).writeBytes 0x200 bs) := by
  obtain ⟨-, hv, hi, hpc, hstk, hsp, hdt, hst, hfb, herr⟩ := resetStateValues
  exact {
    program := fun _ hj => (resetCommand s).readByte_writeBytes_add (by omega) hj
    elsewhere := fun _ ha => (resetCommand s).readByte_writeBytes_other ha
    regs := hv, index := hi, counter := hpc, entries := hstk, depth := hsp, timers := ⟨hdt, hst⟩, dark := hfb
    noFault := herr }

/-- Settles O53: the run is the two commands in turn, neither of which touches the keys or the font. -/
theorem resetThenLoadBoots : Obligations.ResetThenLoadBoots := by
  intro P s h
  have hreset : command .reset s = .next (resetCommand s) := rfl
  have hrun : run [.reset, .load P] s = .next ((resetCommand s).writeBytes 0x200 P) := by
    rw [run_cons_of_next hreset, run_cons_of_next (command_load_of_le h)]; rfl
  exact ⟨_, hrun, booted_writeBytes_resetCommand s h, rfl, rfl⟩

end Sys2Proof.Machine
end

section
/-! PROOFS. The statements of spec/30_encoding.md on which words are instructions: the six classes of illegal words, and the
rows of the opcode table. -/

namespace Sys2Proof

variable {w : Word} {e : Reject} {r : Row}

/-! ### The classes of illegal words (R78) -/

/-- The words that decoding rejects by the name `e`: the classes (a) to (f) of R78; a whole word is never too short. -/
def RejectedAs (e : Reject) (w : Word) : Prop :=
  match e with
  | .family0 => nibA w = 0 ∧ w ≠ 0x00E0 ∧ w ≠ 0x00EE
  | .family5 => nibA w = 5 ∧ nibD w ≠ 0
  | .family8 => nibA w = 8 ∧ nibD w ∈ [0x8, 0x9, 0xA, 0xB, 0xC, 0xD, 0xF]
  | .family9 => nibA w = 9 ∧ nibD w ≠ 0
  | .familyE => nibA w = 0xE ∧ fieldNN w ∉ [0x9E, 0xA1]
  | .familyF => nibA w = 0xF ∧ fieldNN w ∉ [0x07, 0x15, 0x18, 0x1E, 0x29, 0x33, 0x55, 0x65]
  | .tooShort => False

theorem decodeFamily8_eq_error_iff :
    decodeFamily8 w = .error e ↔ e = .family8 ∧ nibD w ∈ [0x8, 0x9, 0xA, 0xB, 0xC, 0xD, 0xF] := by
  unfold decodeFamily8
  split
  case h_10 =>
    have hd : nibD w ∈ [0x8, 0x9, 0xA, 0xB, 0xC, 0xD, 0xF] := by
      simp only [List.mem_cons, List.not_mem_nil, or_false, BitVec.toNat_eq]
      have := (nibD w).isLt; grind
    simp only [hd, and_true, Except.error.injEq, eq_comm]
  case h_1 hd | h_2 hd | h_3 hd | h_4 hd | h_5 hd | h_6 hd | h_7 hd | h_8 hd | h_9 hd =>
    simp [BitVec.toNat_eq, hd]

theorem decodeFamilyE_eq_error_iff :
    decodeFamilyE w = .error e ↔ e = .familyE ∧ fieldNN w ∉ [0x9E, 0xA1] := by
  unfold decodeFamilyE
  split
  case h_3 h1 h2 => simp_all [BitVec.toNat_eq, eq_comm]
  case h_1 hn | h_2 hn => simp [BitVec.toNat_eq, hn]

theorem decodeFamilyF_eq_error_iff :
    decodeFamilyF w = .error e ↔
      e = .familyF ∧ fieldNN w ∉ [0x07, 0x15, 0x18, 0x1E, 0x29, 0x33, 0x55, 0x65] := by
  unfold decodeFamilyF
  split
  case h_9 => simp_all [BitVec.toNat_eq, eq_comm]
  case h_1 hn | h_2 hn | h_3 hn | h_4 hn | h_5 hn | h_6 hn | h_7 hn | h_8 hn => simp [BitVec.toNat_eq, hn]

/-- By the family nibble, in the order of the decoder's arms: an arm that rejects at all rejects by its own name. -/
theorem decodeWord_eq_error_iff : decodeWord w = .error e ↔ RejectedAs e w := by
  unfold decodeWord
  split
  case h_1 ha =>
    have hclass : RejectedAs e w ↔ e = .family0 ∧ w ≠ 0x00E0 ∧ w ≠ 0x00EE := by
      cases e <;> simp [RejectedAs, BitVec.toNat_eq, ha]
    rw [hclass]
    split
    next hcls => simp [hcls]
    next hcls => split <;> simp_all [eq_comm]
  case h_6 ha | h_10 ha => split <;> cases e <;> simp_all [RejectedAs, BitVec.toNat_eq]
  case h_9 ha =>
    rw [decodeFamily8_eq_error_iff]
    cases e <;> simp [RejectedAs, BitVec.toNat_eq, ha]
  case h_15 ha =>
    rw [decodeFamilyE_eq_error_iff]
    cases e <;> simp [RejectedAs, BitVec.toNat_eq, ha]
  case h_16 =>
    have ha : (nibA w).toNat = 0xF := by have := (nibA w).isLt; grind
    rw [decodeFamilyF_eq_error_iff]
    cases e <;> simp [RejectedAs, BitVec.toNat_eq, ha]
  case h_2 ha | h_3 ha | h_4 ha | h_5 ha | h_7 ha | h_8 ha | h_11 ha | h_12 ha | h_13 ha | h_14 ha =>
    cases e <;> simp [RejectedAs, BitVec.toNat_eq, ha]

/-- Settles O4: the classes are the six that `RejectedAs` lists. -/
theorem illegalWordsByClass : Obligations.IllegalWordsByClass := fun _ =>
  ⟨decodeWord_eq_error_iff, decodeWord_eq_error_iff, decodeWord_eq_error_iff, decodeWord_eq_error_iff,
    decodeWord_eq_error_iff, decodeWord_eq_error_iff, decodeWord_eq_error_iff.1⟩

/-! ### The opcode table (R75) -/

/-- A word that a row hits has the pattern's bits in every field that the row's mask fixes whole. -/
theorem extractLsb'_of_hits {start len : Nat} (h : r.hits w = true)
    (hm : r.mask.extractLsb' start len = BitVec.allOnes len) :
    r.pattern.extractLsb' start len = w.extractLsb' start len := by
  rw [← of_decide_eq_true h, BitVec.extractLsb'_and, hm, BitVec.and_allOnes]

/-- A word that a row hits is of the row's family: every mask fixes nibble `a`. -/
theorem nibA_of_hits (hr : r ∈ opcodeTable) (h : r.hits w = true) : nibA r.pattern = nibA w := by
  have hmasks : ∀ r ∈ opcodeTable, nibA r.mask = 0xF := by decide
  exact extractLsb'_of_hits h (hmasks r hr)

theorem nibD_of_hits (h : r.hits w = true) (hm : nibD r.mask = 0xF) : nibD r.pattern = nibD w :=
  extractLsb'_of_hits h hm

theorem fieldNN_of_hits (h : r.hits w = true) (hm : fieldNN r.mask = 0xFF) : fieldNN r.pattern = fieldNN w :=
  extractLsb'_of_hits h hm

/-- No row hits an illegal word: every row of its family fixes the function code, to a value its class leaves out. -/
theorem not_hits_of_rejectedAs (hw : RejectedAs e w) (hr : r ∈ opcodeTable) : ¬ r.hits w = true := by
  intro h
  have ha := nibA_of_hits hr h
  cases e with
  | tooShort => exact hw
  | family0 =>
    obtain ⟨hf, h1, h2⟩ := hw
    have hrows : ∀ r ∈ opcodeTable, nibA r.pattern = 0 → r.mask = 0xFFFF ∧ r.pattern ∈ [0x00E0, 0x00EE] := by decide
    obtain ⟨hm, hp⟩ := hrows r hr (ha.trans hf)
    have hwp : w &&& 0xFFFF = r.pattern := hm ▸ of_decide_eq_true h
    rw [← hwp, show w &&& 0xFFFF = w from BitVec.and_allOnes] at hp
    rw [List.mem_pair] at hp
    exact hp.elim h1 h2
  | family5 =>
    have hrows : ∀ r ∈ opcodeTable, nibA r.pattern = 5 → nibD r.mask = 0xF ∧ nibD r.pattern = 0 := by decide
    obtain ⟨hm, hp⟩ := hrows r hr (ha.trans hw.1)
    exact hw.2 (nibD_of_hits h hm ▸ hp)
  | family9 =>
    have hrows : ∀ r ∈ opcodeTable, nibA r.pattern = 9 → nibD r.mask = 0xF ∧ nibD r.pattern = 0 := by decide
    obtain ⟨hm, hp⟩ := hrows r hr (ha.trans hw.1)
    exact hw.2 (nibD_of_hits h hm ▸ hp)
  | family8 =>
    have hrows : ∀ r ∈ opcodeTable, nibA r.pattern = 8 →
      nibD r.mask = 0xF ∧ nibD r.pattern ∉ [0x8, 0x9, 0xA, 0xB, 0xC, 0xD, 0xF] := by decide
    obtain ⟨hm, hp⟩ := hrows r hr (ha.trans hw.1)
    exact hp (nibD_of_hits h hm ▸ hw.2)
  | familyE =>
    have hrows : ∀ r ∈ opcodeTable, nibA r.pattern = 0xE →
      fieldNN r.mask = 0xFF ∧ fieldNN r.pattern ∈ [0x9E, 0xA1] := by decide
    obtain ⟨hm, hp⟩ := hrows r hr (ha.trans hw.1)
    exact hw.2 (fieldNN_of_hits h hm ▸ hp)
  | familyF =>
    have hrows : ∀ r ∈ opcodeTable, nibA r.pattern = 0xF →
      fieldNN r.mask = 0xFF ∧ fieldNN r.pattern ∈ [0x07, 0x15, 0x18, 0x1E, 0x29, 0x33, 0x55, 0x65] := by decide
    obtain ⟨hm, hp⟩ := hrows r hr (ha.trans hw.1)
    exact hw.2 (fieldNN_of_hits h hm ▸ hp)

/-- Two different rows never hit the same word: it would agree with both on a bit where they differ. -/
theorem not_hits_both {q : Row} (hrq : (r.pattern ^^^ q.pattern) &&& (r.mask &&& q.mask) ≠ 0) :
    ¬ (r.hits w = true ∧ q.hits w = true) := by
  rintro ⟨h, h'⟩
  rw [← of_decide_eq_true h, ← of_decide_eq_true h'] at hrq
  refine hrq (BitVec.eq_of_getElem_eq fun k hk => ?_)
  simp only [BitVec.getElem_and, BitVec.getElem_xor]
  cases w[k]
  · simp
  · cases r.mask[k] <;> simp

/-- A row that hits a word is the only one that does. -/
theorem filter_hits_eq_singleton (hr : r ∈ opcodeTable) (h : r.hits w = true) :
    opcodeTable.filter (·.hits w) = [r] := by
  have hmem : r ∈ opcodeTable.filter (·.hits w) := List.mem_filter.2 ⟨hr, h⟩
  have hpair : (opcodeTable.filter (·.hits w)).Pairwise fun _ _ => False :=
    (opcodeTable_disjoint.filter _).imp_of_mem fun ha hb hab =>
      not_hits_both hab ⟨(List.mem_filter.1 ha).2, (List.mem_filter.1 hb).2⟩
  generalize opcodeTable.filter (·.hits w) = l at hmem hpair
  match l, hpair with
  | [], _ => cases hmem
  | [a], _ => rw [List.mem_singleton.1 hmem]
  | a :: b :: rest, hpair => exact (List.rel_of_pairwise_cons hpair List.mem_cons_self).elim

open Laws.MatchesRow in
/-- The encoder's word of every instruction lies in the instruction's own row (R75). -/
theorem matchesRow (i : Instr) : Statement i := by
  cases i
  exacts [cls, ret, jp _, call _, seVxNn _ _, sneVxNn _ _, seVxVy _ _, ldVxNn _ _, addVxNn _ _, ldVxVy _ _, or _ _,
    and _ _, xor _ _, addVxVy _ _, sub _ _, shr _ _, subn _ _, shl _ _, sneVxVy _ _, ldINnn _, jpV0Nnn _, rnd _ _,
    drw _ _ _, skp _, sknp _, ldVxDt _, ldDtVx _, ldStVx _, addIVx _, ldFVx _, ldBVx _, ldMemVx _, ldVxMem _]

/-- Settles O3: a word that decodes is its instruction's own (O2), so its row is hit, and no other is; a word that is rejected
is in one of the six classes. -/
theorem decodeFollowsOpcodeTable : Obligations.DecodeFollowsOpcodeTable := by
  intro w
  cases hd : decodeWord w with
  | ok i =>
    obtain ⟨hi, rfl⟩ := encodeDecodeAgree w i hd
    obtain ⟨r, hr, hname, hhit⟩ := matchesRow i hi
    change (opcodeTable.filter (·.hits (encodeWord i))).map Row.mnemonic = [mnemonic i]
    rw [filter_hits_eq_singleton hr hhit, List.map_singleton, hname]
  | error e =>
    exact List.filter_eq_nil_iff.2 fun r hr => not_hits_of_rejectedAs (decodeWord_eq_error_iff.1 hd) hr

end Sys2Proof
end

section
/-! PROOFS. The statements of spec/60_exceptions.md and spec/70_reset_and_hazards.md on the checks of a step: what each check
answers, fault entry, the halted condition, rest, and the commands TICK, an over-long LOAD, and STEP with nothing loaded. -/

namespace Sys2Proof.Machine

variable {s t : State} {c : Command} {nnn : BitVec 12} {written more : List Part}

/-! ### The checks of a step, each with its answer (R167) -/

theorem step_of_halted (herr : s.err ≠ 0) : step s = .next s := by
  obtain ⟨-, hstep⟩ | ⟨h0, -⟩ | ⟨h0, -⟩ | ⟨h0, -⟩ := step_cases s
  · exact hstep
  all_goals exact absurd h0 herr

/-- PC above 0xFFE: the fetch is out of bounds (R56). -/
theorem step_of_fetch_out (herr : s.err = 0) (hpc : 0xFFE < s.pc.toNat) : step s = .next { s with err := 4 } := by
  obtain ⟨hne, -⟩ | ⟨-, -, hstep⟩ | ⟨-, hle, -⟩ | ⟨-, hle, -⟩ := step_cases s
  · exact absurd herr hne
  · exact hstep
  all_goals omega

/-- No instruction at PC (R78). -/
theorem step_of_illegal {r : Reject} (herr : s.err = 0) (hpc : s.pc.toNat ≤ 0xFFE)
    (hd : decodeWord s.wordAtPc = .error r) : step s = .next { s with err := 1 } := by
  obtain ⟨hne, -⟩ | ⟨-, hgt, -⟩ | ⟨-, -, -, hstep⟩ | ⟨-, -, i, hi, -⟩ := step_cases s
  · exact absurd herr hne
  · omega
  · exact hstep
  · rw [hd] at hi; cases hi

/-- Settles O7: the first three of the four cases of a step. -/
theorem stepChecksInOrder : Obligations.StepChecksInOrder := fun _ =>
  ⟨step_of_halted, step_of_fetch_out, fun herr hpc _ hd => step_of_illegal herr hpc hd⟩

/-! ### Fault entry (R163) -/

/-- A step from ERR = 0 records a fault and nothing else, or leaves ERR at 0. -/
theorem step_next_cases (herr : s.err = 0) (h : step s = .next t) :
    (∃ e : Fault, t = s.setErr e.code) ∨ t.err = 0 := by
  obtain ⟨hne, -⟩ | ⟨-, -, hstep⟩ | ⟨-, -, -, hstep⟩ | ⟨-, -, i, -, hstep⟩ := step_cases s
  · exact absurd herr hne
  · rw [hstep] at h; cases h; exact .inl ⟨_, rfl⟩
  · rw [hstep] at h; cases h; exact .inl ⟨_, rfl⟩
  · exact (exec_next_cases (hstep.symm.trans h)).imp_right fun hkeep => hkeep.1.trans herr

theorem Fault.one_le_code (e : Fault) : 1 ≤ e.code.toNat := by
  cases e <;> decide

/-- Settles O9: ERR is not 0 after the step, so that the step is one that records a fault. -/
theorem faultEntryIsPrecise : Obligations.FaultEntryIsPrecise := by
  intro s t herr h hne
  obtain ⟨e, rfl⟩ | h0 := step_next_cases herr h
  · exact ⟨rfl, e.one_le_code, e.code_le⟩
  · exact absurd h0 hne

/-! ### TICK and LOAD (R175, R194) -/

/-- Settles O47: each timer counts down by itself, and TICK writes nothing else. -/
theorem tickResult : Obligations.TickResult := fun s =>
  ⟨_, rfl, countDown_toNat s.dt, countDown_toNat s.st, frame_tickCommand s⟩

/-- Settles O51: the length is over the bound that LOAD tests. -/
theorem longLoadIsRefused : Obligations.LongLoadIsRefused := fun _ _ h =>
  if_neg (Nat.not_le.2 h)

/-! ### Halted until RESET (R164, R165) -/

theorem Frame.mono (h : Frame written s t) (hsub : written ⊆ more) : Frame more s t :=
  fun p hp => h p fun hw => hp (hsub hw)

/-- A halted STEP(r) changes nothing: the random input is presented and put back. -/
theorem eq_of_command_step_halted {r : Byte} (herr : s.err ≠ 0) (h : command (.step r) s = .next t) : t = s := by
  have hstep : step (s.setRnd (some r)) = .next (s.setRnd (some r)) := step_of_halted herr
  exact (Host.Outcome.next.inj ((command_step_of_next hstep).symm.trans h)).symm

/-- From a halted state a command other than RESET changes memory, the timers and the keys at most. -/
theorem frame_of_command_halted (herr : s.err ≠ 0) (hc : c ≠ .reset) (h : command c s = .next t) :
    Frame [.mem, .dt, .st, .key] s t := by
  cases c with
  | reset => exact absurd rfl hc
  | load bytes =>
    by_cases hlen : bytes.length ≤ 3584
    · rw [command_load_of_le hlen] at h
      cases h; exact (frame_writeBytes s 0x200 bytes).mono (by decide)
    · rw [longLoadIsRefused bytes s (Nat.not_le.1 hlen)] at h
      cases h
  | step r => rw [eq_of_command_step_halted herr h]; exact Frame.refl _ s
  | tick => cases h; exact (frame_tickCommand s).mono (by decide)
  | setKey k down => cases h; exact (frame_setKeyCommand k down s).mono (by decide)

/-- Settles O11: by induction on the commands; ERR is in the frame, so the state stays halted. -/
theorem haltedUntilReset : Obligations.HaltedUntilReset := by
  intro cs
  induction cs with
  | nil => intro s t _ _ h; cases h; exact Frame.refl _ s
  | cons c cs ih =>
    intro s u herr hcs h
    obtain ⟨t, hc, hrun⟩ := run_cons_eq_next.1 h
    have hframe := frame_of_command_halted herr (hcs c List.mem_cons_self) hc
    have hterr : t.err = s.err := hframe .err (by decide)
    exact hframe.trans (ih t u (hterr ▸ herr) (fun d hd => hcs d (List.mem_cons_of_mem c hd)) hrun)

/-! ### At rest (R12) -/

/-- A jump to its own address changes nothing (R101). -/
theorem exec_jp_self (h : immAddr nnn = s.pc) : exec (.jp nnn) s = .next s := by
  have hjp : exec (.jp nnn) s = .next (s.setPc (immAddr nnn)) := rfl
  rw [hjp, h]; rfl

/-- Settles O55: the step executes the jump to itself; what makes rest is ERR, PC and memory, and neither TICK nor SETKEY
touches these. -/
theorem atRestStaysAtRest : Obligations.AtRestStaysAtRest := by
  intro s hrest
  refine ⟨?_, fun t h => ?_, fun k down t h => ?_⟩
  · obtain ⟨herr, hpc, nnn, rest, hd, hself⟩ := hrest
    have hword : decodeWord s.wordAtPc = .ok (.jp nnn) := by
      rw [decode_fetchBytes] at hd
      split at hd <;> cases hd
      assumption
    rw [step_eq_exec herr (s.fetchInBounds_iff.1 hpc) hword, exec_jp_self hself]
  · cases h; exact hrest
  · cases h; exact hrest

/-! ### Nothing loaded (R192) -/

/-- The word at 0x200 after RESET is 0000, which no instruction has. -/
theorem wordAtPc_resetCommand (s : State) : (resetCommand s).wordAtPc = 0x0000 := by
  have hzero : ∀ a, 80 ≤ a → (resetCommand s).readByte a = 0 := fun a ha => Memory.unlisted_of_le ha
  have hpc : (resetCommand s).pc.toNat = 0x200 := rfl
  rw [State.wordAtPc, hpc, hzero _ (by decide), hzero _ (by decide)]
  rfl

/-- Settles O54: RESET leaves ERR = 0 and an illegal word at 0x200, with or without a random byte presented. -/
theorem unloadedMachineHalts : Obligations.UnloadedMachineHalts := by
  intro s r
  have hreset : command .reset s = .next (resetCommand s) := rfl
  have hillegal : decodeWord ((resetCommand s).setRnd (some r)).wordAtPc = .error .family0 :=
    (congrArg decodeWord (wordAtPc_resetCommand s)).trans (by decide)
  have hpc : (0x200 : Word).toNat ≤ 0xFFE := by decide
  have hstep := step_of_illegal (s := (resetCommand s).setRnd (some r)) rfl hpc hillegal
  exact ⟨_, (run_cons_of_next hreset).trans (run_cons_of_next (command_step_of_next hstep)), rfl, rfl⟩

end Sys2Proof.Machine
end

section
/-! PROOFS. The statements of spec/40_flow_and_skips.md and, on the key skips, of spec/44_keys_and_timers.md: where each jump,
call, return and skip leaves PC. -/

namespace Sys2Proof.Machine

variable {s t : State} {i : Instr} {c : Bool}

/-- An instruction that can record no fault keeps ERR and its frame. -/
theorem frame_of_faultless (hi : possibleFault i = none) (h : exec i s = .next t) :
    t.err = s.err ∧ Frame (writtenParts i) s t := by
  obtain ⟨e, he, -⟩ | ⟨u, hu, herr, hframe, -⟩ := exec_cases (s := s) i
  · rw [hi] at he; cases he
  · obtain rfl := Host.Outcome.next.inj (hu.symm.trans h)
    exact ⟨herr, hframe⟩

/-! ### Jumps (R101, R103) -/

/-- Settles O26: NNN zero-extended is PC itself when their numbers agree, and 0xFFF is past the last address a fetch takes. -/
theorem jumpResult : Obligations.JumpResult := by
  intro nnn s
  obtain ⟨t, h⟩ := exec_answers_next (.jp nnn) s
  obtain ⟨herr, hframe⟩ := frame_of_faultless rfl h
  refine ⟨decodeWord_encodeWord (i := .jp nnn) rfl, t, h, pc_of_jp h, hframe, fun hself => ?_, fun h0 hlast => ?_⟩
  · have himm : immAddr nnn = s.pc := BitVec.eq_of_toNat_eq ((immAddr_toNat nnn).trans hself)
    exact Host.Outcome.next.inj (h.symm.trans (exec_jp_self himm))
  · have hpc : t.pc.toNat = 0xFFF := by rw [pc_of_jp h, hlast]; rfl
    exact step_of_fetch_out (herr.trans h0) (by omega)

/-- Settles O27: the target is not reduced, so that the next fetch may be out of bounds. -/
theorem jumpOffsetResult : Obligations.JumpOffsetResult := by
  intro nnn s
  obtain ⟨t, h⟩ := exec_answers_next (.jpV0Nnn nnn) s
  obtain ⟨herr, hframe⟩ := frame_of_faultless rfl h
  exact ⟨decodeWord_encodeWord (i := .jpV0Nnn nnn) rfl, t, h, pc_of_jpV0Nnn h, hframe,
    fun h0 hpc => step_of_fetch_out (herr.trans h0) hpc⟩

/-! ### Call and return (R100, R102) -/

/-- Settles O28: the one entry written is that of the old SP. -/
theorem callResult : Obligations.CallResult := by
  intro nnn s
  refine ⟨decodeWord_encodeWord (i := .call nnn) rfl, fun hsp => ?_, exec_call_full s nnn⟩
  have h := exec_call_of_lt s nnn hsp
  obtain ⟨hframe, -, -⟩ := everyInstructionKeepsItsFrame _ s _ h rfl
  refine ⟨_, h, immAddr_toNat nnn, rfl, fun k => ?_, hframe⟩
  simp only [State.getStk_setPc, State.getStk_setSp, State.getStk_setStk, State.getStk_advance, Fin.ext_iff]

/-- Settles O29: the entry is read and SP counts down; the stack is in the frame. -/
theorem returnResult : Obligations.ReturnResult := by
  intro s
  refine ⟨decodeWord_encodeWord (i := .ret) rfl, fun k hk => ?_, exec_ret_empty s⟩
  have h := exec_ret_of_succ s k hk
  obtain ⟨hframe, -, -⟩ := everyInstructionKeepsItsFrame _ s _ h rfl
  exact ⟨_, h, rfl, rfl, hframe⟩

/-! ### Skips by registers (R104 to R107) -/

/-- A skip that leaves PC at 0xFFC + 4 faults at the next fetch (R56). -/
theorem fetch_fault_after_skip (h0 : t.err = 0) (hpc : t.pc = s.pc + 4) (hs : s.pc = 0xFFC) :
    t.pc = 0x1000 ∧ step t = .next { t with err := 4 } := by
  have ht : t.pc = 0x1000 := by rw [hpc, hs]; rfl
  exact ⟨ht, step_of_fetch_out h0 (by rw [ht]; decide)⟩

/-- Settles O31: PC by the two laws of Laws/Exec.lean; neither instruction can fault. -/
theorem skipImmediateResults : Obligations.SkipImmediateResults := by
  intro x nn s
  obtain ⟨t, ht, htpc⟩ := exec_seVxNn_pc s x nn
  obtain ⟨u, hu, hupc⟩ := exec_sneVxNn_pc s x nn
  obtain ⟨hterr, htframe⟩ := frame_of_faultless rfl ht
  obtain ⟨huerr, huframe⟩ := frame_of_faultless rfl hu
  refine ⟨⟨decodeWord_encodeWord (i := .seVxNn x nn) rfl, t, ht, htpc, htframe, fun h0 hs hv => ?_⟩,
    decodeWord_encodeWord (i := .sneVxNn x nn) rfl, u, hu, hupc, huframe, fun h0 hs hv => ?_⟩
  · exact fetch_fault_after_skip (hterr.trans h0) (htpc.trans (if_pos hv)) hs
  · exact fetch_fault_after_skip (huerr.trans h0) (hupc.trans (if_neg hv)) hs

/-- Settles O32: the same without an immediate; the neighbours are in the classes (b) and (d) of R78. -/
theorem skipRegisterResults : Obligations.SkipRegisterResults := by
  intro x y s
  obtain ⟨t, ht, htpc⟩ := exec_seVxVy_pc s x y
  obtain ⟨u, hu, hupc⟩ := exec_sneVxVy_pc s x y
  have h5 : ∀ d, d ≠ 0 → decodeWord (wordXYD 0x5 x y d) = .error .family5 := fun d hd =>
    decodeWord_eq_error_iff.2 ⟨nibA_wordXYD .., (nibD_wordXYD 0x5 d x y).symm ▸ hd⟩
  have h9 : ∀ d, d ≠ 0 → decodeWord (wordXYD 0x9 x y d) = .error .family9 := fun d hd =>
    decodeWord_eq_error_iff.2 ⟨nibA_wordXYD .., (nibD_wordXYD 0x9 d x y).symm ▸ hd⟩
  exact ⟨⟨decodeWord_encodeWord (i := .seVxVy x y) rfl, h5, t, ht, htpc, (frame_of_faultless rfl ht).2⟩,
    decodeWord_encodeWord (i := .sneVxVy x y) rfl, h9, u, hu, hupc, (frame_of_faultless rfl hu).2⟩

/-! ### Skips by keys (R150, R151) -/

/-- An instruction that may write PC alone, and whose meaning is a conditional skip, completes so. -/
theorem result_of_skipIf (hparts : writtenParts i = [.pc]) (h : exec i s = .next (s.advance.skipIf c)) :
    ∃ t, exec i s = .next t ∧ t.pc = (if c = true then s.pc + 4 else s.pc + 2) ∧ Frame [.pc] s t := by
  obtain ⟨hframe, -, -⟩ := everyInstructionKeepsItsFrame i s _ h (State.skipIf_err ..)
  rw [hparts] at hframe
  exact ⟨_, h, s.pc_skipIf_advance c, hframe⟩

/-- Settles O44: SKP skips under the key, SKNP under its negation, and above 15 there is no key. -/
theorem keySkipResults : Obligations.KeySkipResults := by
  intro x s
  refine ⟨decodeWord_encodeWord (i := .skp x) rfl, decodeWord_encodeWord (i := .sknp x) rfl, fun k hk => ⟨?_, ?_⟩,
    fun hk => ⟨exec_skp_of_out s x hk, exec_sknp_of_out s x hk⟩⟩
  · exact result_of_skipIf rfl (exec_skp_of_key s x k hk)
  · obtain ⟨t, h, hpc, hframe⟩ := result_of_skipIf rfl (exec_sknp_of_key s x k hk)
    refine ⟨t, h, hpc.trans ?_, hframe⟩
    cases s.key[k] <;> rfl

end Sys2Proof.Machine
end

section
/-! PROOFS. The statements of spec/41_alu.md on the operations that write a flag, and on the random byte. -/

namespace Sys2Proof.Machine

variable {s : State} {i : Instr} {x : RegNo} {f b : Byte}

/-! ### A flag, then a result (R9, R117 to R121) -/

/-- An instruction that may write V and PC alone, and whose meaning is a flag in VF and then the byte `b` in VX: the flag
stays unless X = F. -/
theorem result_of_flagThenReg (hparts : writtenParts i = [.v, .pc])
    (h : exec i s = writeReg (s.advance.setFlag f) x b) :
    ∃ t, exec i s = .next t ∧ t.getV x = b ∧ (x ≠ vf → t.getV vf = f) ∧ OtherRegs [x, vf] s t ∧ t.pc = s.pc + 2 ∧
      Frame [.v, .pc] s t := by
  have hval : ((s.advance.setFlag f).setV x b).getV x = b := by rw [State.getV_setV, if_pos rfl]
  have hflag : OtherRegs [x, vf] s (s.advance.setFlag f) := OtherRegs.setV (fun _ _ => rfl) (by simp)
  obtain ⟨hframe, -, -⟩ := everyInstructionKeepsItsFrame i s _ h rfl
  rw [hparts] at hframe
  exact ⟨_, h, hval, fun hx => s.advance.getV_vf_setV_setFlag hx f b, hflag.setV List.mem_cons_self, rfl, hframe⟩

/-- What the second statement reads (R9). -/
theorem getV_advance_setFlag (s : State) (f : Byte) (x : RegNo) :
    (s.advance.setFlag f).getV x = regAfterFlag s f x :=
  s.advance.getV_setFlag f x

theorem regAfterFlag_vf (s : State) (f : Byte) : regAfterFlag s f vf = f := if_pos rfl

theorem regAfterFlag_of_ne (hx : x ≠ vf) : regAfterFlag s f x = s.getV x := if_neg hx

theorem carryFlag_eq (n : Nat) : carryFlag n = if n > 255 then 1 else 0 := by
  simp only [carryFlag, flagByte, decide_eq_true_eq]

theorem noBorrowFlag_eq (a b : Byte) : noBorrowFlag a b = if b.toNat < a.toNat then 1 else 0 := by
  simp only [noBorrowFlag, flagByte, decide_eq_true_eq, gt_iff_lt]

/-! ### Sum and differences (R117, R118, R120) -/

/-- Settles O21: the sum is of the registers on entry. -/
theorem addRegistersResult : Obligations.AddRegistersResult := by
  intro x y s
  obtain ⟨t, h, hval, hflag, hrest⟩ := result_of_flagThenReg (i := .addVxVy x y) (s := s) rfl rfl
  refine ⟨decodeWord_encodeWord (i := .addVxVy x y) rfl, t, h, ?_, fun hx => ?_, hrest⟩
  · rw [hval, BitVec.toNat_ofNat]; rfl
  · exact (hflag hx).trans (carryFlag_eq _)

/-- The difference of two bytes, as a number. -/
theorem toNat_sub_byte (a b : Byte) : (a - b).toNat = (a.toNat + 256 - b.toNat) % 256 := by
  rw [BitVec.toNat_sub]; omega

/-- Settles O22: one proof for both, the minuend and the subtrahend exchanged. -/
theorem subtractResults : Obligations.SubtractResults := by
  intro x y s
  obtain ⟨t, ht, htval, htflag, htrest⟩ := result_of_flagThenReg (i := .sub x y) (s := s) rfl rfl
  obtain ⟨u, hu, huval, huflag, hurest⟩ := result_of_flagThenReg (i := .subn x y) (s := s) rfl rfl
  simp only [getV_advance_setFlag, noBorrowFlag_eq, State.getV_advance] at htval htflag huval huflag
  exact ⟨⟨decodeWord_encodeWord (i := .sub x y) rfl, t, ht, by rw [htval, toNat_sub_byte], htflag, htrest⟩,
    decodeWord_encodeWord (i := .subn x y) rfl, u, hu, by rw [huval, toNat_sub_byte], huflag, hurest⟩

/-! ### Shifts (R119, R121) -/

theorem toNat_ushiftRight_one (a : Byte) : (a >>> 1).toNat = a.toNat / 2 := by
  rw [BitVec.toNat_ushiftRight, Nat.shiftRight_eq_div_pow]

theorem toNat_shiftLeft_one (a : Byte) : (a <<< 1).toNat = 2 * a.toNat % 256 := by
  rw [BitVec.toNat_shiftLeft, Nat.shiftLeft_eq, Nat.mul_comm]

/-- Settles O23: VX after the flag is VX on entry, or the flag itself when X = F. -/
theorem shiftResults : Obligations.ShiftResults := by
  intro x y s
  obtain ⟨t, ht, htval, htflag, htrest⟩ := result_of_flagThenReg (i := .shr x y) (s := s) rfl rfl
  obtain ⟨u, hu, huval, huflag, hurest⟩ := result_of_flagThenReg (i := .shl x y) (s := s) rfl rfl
  simp only [getV_advance_setFlag, State.getV_advance] at htval htflag huval huflag
  refine ⟨⟨decodeWord_encodeWord (i := .shr x y) rfl, t, ht, fun hx => ⟨?_, ?_⟩, ?_, htrest⟩,
    decodeWord_encodeWord (i := .shl x y) rfl, u, hu, fun hx => ⟨?_, ?_⟩, ?_, hurest⟩
  · rw [htval, regAfterFlag_of_ne hx, toNat_ushiftRight_one]
  · rw [htflag hx, shiftedOutLow_toNat]
  · rintro rfl
    apply BitVec.eq_of_toNat_eq
    rw [htval, regAfterFlag_vf, toNat_ushiftRight_one, shiftedOutLow_toNat]
    exact Nat.div_eq_of_lt (Nat.mod_lt _ (by decide))
  · rw [huval, regAfterFlag_of_ne hx, toNat_shiftLeft_one]
  · rw [huflag hx, shiftedOutHigh_toNat]
  · rintro rfl
    rw [huval, regAfterFlag_vf, toNat_shiftLeft_one, shiftedOutHigh_toNat]
    have := (s.getV vf).isLt; omega

/-! ### VF as an operand (R123) -/

/-- A flag as a number. -/
theorem toNat_ite_flag (p : Prop) [Decidable p] : (if p then 1 else 0 : Byte).toNat = if p then 1 else 0 := by
  split <;> rfl

/-- Settles O24: the rows are O21, O22 and O23 at VF, where a register read after the flag is the flag (X or Y = F) or
unchanged. -/
theorem vfOperandTable : Obligations.VfOperandTable := by
  intro r s hr v u
  have hadd := fun x y => (addRegistersResult x y s).2
  have hsub := fun x y => (subtractResults x y s).1.2
  have hsubn := fun x y => (subtractResults x y s).2.2
  refine ⟨?_, ?_, ?_, ?_, ?_, ?_, fun y => ?_, ?_, ?_, ?_, fun y => ?_⟩
  · obtain ⟨t, ht, hval, -⟩ := hadd vf r
    exact ⟨t, ht, hval⟩
  · obtain ⟨t, ht, hval, hflag, -⟩ := hadd r vf
    exact ⟨t, ht, hval, by rw [hflag hr, toNat_ite_flag]⟩
  · obtain ⟨t, ht, hval, -⟩ := hadd vf vf
    exact ⟨t, ht, by rw [hval, Nat.two_mul]⟩
  · obtain ⟨t, ht, hval, -⟩ := hsub vf r
    exact ⟨t, ht, by rw [hval, regAfterFlag_vf, regAfterFlag_of_ne hr, toNat_ite_flag]⟩
  · obtain ⟨t, ht, hval, hflag, -⟩ := hsub r vf
    exact ⟨t, ht, by rw [hval, regAfterFlag_vf, regAfterFlag_of_ne hr, toNat_ite_flag], by rw [hflag hr, toNat_ite_flag]⟩
  · obtain ⟨t, ht, hval, -⟩ := hsub vf vf
    exact ⟨t, ht, by rw [hval, Nat.add_sub_cancel_left]⟩
  · obtain ⟨-, t, ht, -, hval, -⟩ := (shiftResults vf y s).1
    exact ⟨t, ht, by rw [hval rfl]; rfl⟩
  · obtain ⟨t, ht, hval, -⟩ := hsubn vf r
    exact ⟨t, ht, by rw [hval, regAfterFlag_vf, regAfterFlag_of_ne hr, toNat_ite_flag]⟩
  · obtain ⟨t, ht, hval, hflag, -⟩ := hsubn r vf
    exact ⟨t, ht, by rw [hval, regAfterFlag_vf, regAfterFlag_of_ne hr, toNat_ite_flag], by rw [hflag hr, toNat_ite_flag]⟩
  · obtain ⟨t, ht, hval, -⟩ := hsubn vf vf
    exact ⟨t, ht, by rw [hval, Nat.add_sub_cancel_left]⟩
  · obtain ⟨-, t, ht, -, hval, -⟩ := (shiftResults vf y s).2
    exact ⟨t, ht, hval rfl⟩

/-! ### The random byte (R122) -/

/-- CXNN leaves the random byte of the step, masked, in VX. -/
theorem exec_rnd_result (x : RegNo) (nn : Byte) (s : State) :
    ∃ t, exec (.rnd x nn) s = .next t ∧ t.getV x = s.rndByte &&& nn ∧ OtherRegs [x] s t ∧ t.pc = s.pc + 2 ∧
      Frame [.v, .draws, .pc] s t := by
  have hexec : exec (.rnd x nn) s = .next (s.advance.countDraw.setV x (s.rndByte &&& nn)) := rfl
  obtain ⟨hframe, hregs, -⟩ := everyInstructionKeepsItsFrame _ s _ hexec rfl
  exact ⟨_, hexec, by rw [State.getV_setV, if_pos rfl], hregs, rfl, hframe⟩

/-- What is kept while a random byte is presented is kept with the input put back after it. -/
theorem Frame.of_setRnd {written : List Part} {r : Option Byte} {t : State} (h : Frame written (s.setRnd r) t) :
    Frame written s (t.setRnd s.rnd) := by
  intro p hp
  have hagree := h p hp
  cases p with
  | rnd => rfl
  | _ => exact hagree

/-- Settles O25: the byte is a free one, the presented one, or STEP(r)'s; the last by the word at PC, which decides the step. -/
theorem randomByteIsMasked : Obligations.RandomByteIsMasked := by
  intro x nn s
  have hdec : decodeWord (wordXNN 0xC x nn) = .ok (.rnd x nn) := decodeWord_encodeWord (i := .rnd x nn) rfl
  refine ⟨hdec, ?_, fun r => ?_, fun herr hpc hword r => ?_⟩
  · obtain ⟨t, ht, hval, hrest⟩ := exec_rnd_result x nn s
    exact ⟨t, ht, by rw [hval, BitVec.and_assoc, BitVec.and_not_self]; exact BitVec.and_zero, hrest⟩
  · obtain ⟨t, ht, hval, -⟩ := exec_rnd_result x nn (s.setRnd (some r))
    exact ⟨t, ht, hval⟩
  · obtain ⟨t, ht, hval, hregs, htpc, hframe⟩ := exec_rnd_result x nn (s.setRnd (some r))
    have hd : decodeWord (s.setRnd (some r)).wordAtPc = .ok (.rnd x nn) := (congrArg decodeWord hword).trans hdec
    have hstep := (step_eq_exec (s := s.setRnd (some r)) herr hpc hd).trans ht
    exact ⟨_, command_step_of_next hstep, hval, hregs, htpc, hframe.of_setRnd⟩

end Sys2Proof.Machine
end

section
/-! PROOFS. The statements of spec/42_index_and_memory.md on the instructions that a bounds check guards: the index sum, the
decimal store, and the register block store and load. -/

namespace Sys2Proof.Machine

variable {s t : State} {x : RegNo}

/-! ### Index sum (R131) -/

/-- Settles O34: a sum that sixteen bits hold is stored as it is. -/
theorem addIndexResult : Obligations.AddIndexResult := by
  intro x s
  refine ⟨decodeWord_encodeWord (i := .addIVx x) rfl, fun hle => ?_, exec_addIVx_of_gt s x⟩
  have hsum : (BitVec.ofNat 16 (s.i.toNat + (s.getV x).toNat)).toNat = s.i.toNat + (s.getV x).toNat :=
    Nat.mod_eq_of_lt (by omega)
  exact result_of_setI rfl (exec_addIVx_of_le s x hle) hsum

/-! ### The bounds check (R57) -/

/-- An access of `n + 1` bytes is in bounds exactly when its last address is. -/
theorem State.accessInBounds_succ (s : State) (n : Nat) : s.accessInBounds (n + 1) = true ↔ s.i.toNat + n ≤ 0xFFF := by
  simp only [accessInBounds_iff, Nat.add_one_ne_zero, false_or, Nat.add_sub_cancel]

theorem State.not_accessInBounds_succ {n : Nat} (h : 0xFFF < s.i.toNat + n) : ¬ s.accessInBounds (n + 1) = true :=
  fun hin => Nat.not_le.2 h ((s.accessInBounds_succ n).1 hin)

/-! ### Decimal store (R133) -/

/-- FX33 leaves the digits of VX at I, I + 1 and I + 2. -/
theorem readByte_of_ldBVx (hb : s.i.toNat + 2 ≤ 0xFFF) (h : exec (.ldBVx x) s = .next t) {j : Nat} (hj : j < 3) :
    t.readByte (s.dataAddr j) = (decimalDigits (s.getV x))[j] := by
  rw [exec_ldBVx_of_in s x ((s.accessInBounds_succ 2).2 hb)] at h
  cases h
  have hlen : s.dataAddr 0 + (decimalDigits (s.getV x)).length ≤ 4096 := by
    simp only [State.dataAddr, decimalDigits, List.length_cons, List.length_nil]; omega
  exact s.advance.readByte_writeBytes_add hlen hj

/-- Settles O36: three bytes end at I + 2, which is the last address checked. -/
theorem storeDecimalResult : Obligations.StoreDecimalResult := by
  intro x s
  refine ⟨decodeWord_encodeWord (i := .ldBVx x) rfl, fun hb => ?_,
    fun hgt => exec_ldBVx_of_out s x (State.not_accessInBounds_succ hgt)⟩
  have h := exec_ldBVx_of_in s x ((s.accessInBounds_succ 2).2 hb)
  obtain ⟨hframe, -, hbytes⟩ := everyInstructionKeepsItsFrame _ s _ h rfl
  have hlt := (s.getV x).isLt
  refine ⟨_, h, ?_, ?_, ?_, hbytes, rfl, hframe⟩
  · rw [readByte_of_ldBVx hb h (j := 0) (by decide)]
    exact Nat.mod_eq_of_lt (by omega)
  · rw [readByte_of_ldBVx hb h (j := 1) (by decide)]
    exact Nat.mod_eq_of_lt (by omega)
  · rw [readByte_of_ldBVx hb h (j := 2) (by decide)]
    exact Nat.mod_eq_of_lt (by omega)

/-! ### Register block store and load (R134, R135) -/

/-- Settles O37: each register by `readByte_of_ldMemVx`; the X + 1 bytes are those the frame leaves out. -/
theorem storeRegistersResult : Obligations.StoreRegistersResult := by
  intro x s
  refine ⟨decodeWord_encodeWord (i := .ldMemVx x) rfl, fun hb => ?_,
    fun hgt => exec_ldMemVx_of_out s x (State.not_accessInBounds_succ hgt)⟩
  have h := exec_ldMemVx_of_le hb
  obtain ⟨hframe, -, hbytes⟩ := everyInstructionKeepsItsFrame _ s _ h rfl
  exact ⟨_, h, fun r hr => readByte_of_ldMemVx hb h hr, hbytes, rfl, hframe⟩

/-- Settles O38: the registers up to X by `getV_of_ldVxMem`, the others because FX65 does not list them. -/
theorem loadRegistersResult : Obligations.LoadRegistersResult := by
  intro x s
  refine ⟨decodeWord_encodeWord (i := .ldVxMem x) rfl, fun hb => ?_,
    fun hgt => exec_ldVxMem_of_out s x (State.not_accessInBounds_succ hgt)⟩
  have h := exec_ldVxMem_of_le hb
  obtain ⟨hframe, hregs, -⟩ := everyInstructionKeepsItsFrame _ s _ h rfl
  refine ⟨_, h, fun r => ?_, rfl, hframe⟩
  by_cases hr : r ≤ x
  · rw [if_pos hr, getV_of_ldVxMem hb h hr]
  · rw [if_neg hr, hregs r (by simpa [writtenRegs] using hr)]

end Sys2Proof.Machine
end

section
/-! PROOFS. The statement of spec/43_display.md on one sprite: the pixels it toggles, the collision flag, and the bound. -/

namespace Sys2Proof.Machine

variable {s t : State} {x y : RegNo} {n : Nat}

/-- A pixel that the sprite covers is toggled, and any other is kept (R141). -/
theorem pixel_of_drw_in (hn : n < 16) (hin : s.accessInBounds n = true) (h : exec (.drw x y n) s = .next t) (p : Nat) :
    t.pixel p = true ↔
      (s.pixel p = true ∧ ¬ SpriteCovers s (drawCoord s x) (drawCoord s y) n p) ∨
      (s.pixel p = false ∧ SpriteCovers s (drawCoord s x) (drawCoord s y) n p) := by
  rw [pixel_of_drw hn h, hin, Bool.true_and, ← mem_drawnPixels]
  cases s.pixel p <;> simp

/-- Some pixel that the sprite of DXYN covers is lit on entry: a collision (R141). -/
def Collides (x y : RegNo) (n : Nat) (s : State) : Prop :=
  ∃ p, SpriteCovers s (drawCoord s x) (drawCoord s y) n p ∧ s.pixel p = true

/-- VF is 1 at a collision, and else the 0 it was cleared to (R141, R142). -/
theorem getV_vf_of_drw_in (hn : n < 16) (hin : s.accessInBounds n = true) (h : exec (.drw x y n) s = .next t) :
    (t.getV vf = 1 ∧ Collides x y n s) ∨ (t.getV vf = 0 ∧ ¬ Collides x y n s) := by
  have hlit : (∃ p ∈ drawnPixels s x y n, (s.advance.setFlag (flagByte false)).pixel p = true) ↔ Collides x y n s :=
    exists_congr fun p => and_congr_left fun _ => mem_drawnPixels s x y n p
  rw [exec_drw_of_in s x y n hin] at h
  cases h
  rw [State.getV_draw (drawnPixels_nodup s x y (by omega)) fun p hp => drawnPixels_lt s hp]
  split
  next hc => exact .inl ⟨rfl, hlit.1 hc.2⟩
  next hc => exact .inr ⟨by rw [State.getV_setFlag, if_pos rfl]; rfl, fun hcol => hc ⟨rfl, hlit.2 hcol⟩⟩

/-- Settles O42: in bounds the two lemmas above, and the frame; out of bounds the fault. -/
theorem drawResult : Obligations.DrawResult := by
  intro x y n s hn
  have hdec : decodeWord (wordXYD 0xD x y (BitVec.ofNat 4 n)) = .ok (.drw x y n) :=
    decodeWord_encodeWord (i := .drw x y n) (decide_eq_true hn)
  refine ⟨hdec, fun hb => ?_, fun hgt => exec_drw_of_out s x y n fun hin => ?_⟩
  · have hin : s.accessInBounds n = true := (s.accessInBounds_iff n).2 (by omega)
    have h := exec_drw_of_in s x y n hin
    obtain ⟨hframe, hregs, -⟩ := everyInstructionKeepsItsFrame _ s _ h (State.draw_err ..)
    refine ⟨_, h, pixel_of_drw_in hn hin h, ?_, ?_, hregs, State.draw_pc .., hframe⟩ <;>
      obtain ⟨hvf, hcol⟩ | ⟨hvf, hcol⟩ := getV_vf_of_drw_in hn hin h
    · exact .inr hvf
    · exact .inl hvf
    · exact iff_of_true hvf hcol
    · exact iff_of_false (by rw [hvf]; decide) hcol
  · have := (s.accessInBounds_iff n).1 hin
    omega

end Sys2Proof.Machine
end
